-- ==== Sys2Proof/Word.lean ====
section
/-! DEFINITION. The widths of the engine's values (spec/00_scope.md R10): every value is an unsigned integer. -/

namespace Sys2Proof

/-- `u4`: a nibble; a register index or the row count of a sprite (R15). -/
abbrev Nibble := BitVec 4

/-- `u8`: a byte; a general register, a timer, one cell of memory. -/
abbrev Byte := BitVec 8

/-- `u12`: the address field `nnn` (R15). -/
abbrev Addr := BitVec 12

/-- `u16`: an instruction word, I, PC, one stack entry. -/
abbrev Word := BitVec 16

/-- The index of a general register: the fields x and y are four bits wide, so it is always in 0..15 (R33). -/
abbrev Reg := Nibble

/-- VF = V[15], both a general register and the flag register (spec/10_state.md R32). -/
abbrev VF : Reg := 15#4

end Sys2Proof
end

