-- ==== Sys2Proof/Syntax.lean ====
section
/-! DEFINITION. The 31 instructions of spec/opcode_table.json (spec/30_encoding.md R119), and the written form the
spec gives them (R125). Every operand has exactly the width of its field, so no `Instr` is ill-formed; what can be
ill-formed is a written line, and `Sys2Proof/WellFormed.lean` checks that. -/

namespace Sys2Proof

/-- One constructor per row of the opcode table. -/
inductive Instr where
  /-- 00E0 -/
  | cls
  /-- 00EE -/
  | ret
  /-- 1nnn -/
  | jp (nnn : Addr)
  /-- 2nnn -/
  | call (nnn : Addr)
  /-- 3xkk -/
  | seImm (x : Reg) (kk : Byte)
  /-- 4xkk -/
  | sneImm (x : Reg) (kk : Byte)
  /-- 5xy0 -/
  | seReg (x y : Reg)
  /-- 6xkk -/
  | ldImm (x : Reg) (kk : Byte)
  /-- 7xkk -/
  | addImm (x : Reg) (kk : Byte)
  /-- 8xy0 -/
  | ldReg (x y : Reg)
  /-- 8xy1 -/
  | orReg (x y : Reg)
  /-- 8xy2 -/
  | andReg (x y : Reg)
  /-- 8xy3 -/
  | xorReg (x y : Reg)
  /-- 8xy4 -/
  | addReg (x y : Reg)
  /-- 8xy5 -/
  | sub (x y : Reg)
  /-- 8xy6; y is decoded and ignored (R114) -/
  | shr (x y : Reg)
  /-- 8xy7 -/
  | subn (x y : Reg)
  /-- 8xyE; y is decoded and ignored (R114) -/
  | shl (x y : Reg)
  /-- 9xy0 -/
  | sneReg (x y : Reg)
  /-- Annn -/
  | ldI (nnn : Addr)
  /-- Cxkk -/
  | rnd (x : Reg) (kk : Byte)
  /-- Dxyn -/
  | drw (x y : Reg) (n : Nibble)
  /-- ExA1 -/
  | sknp (x : Reg)
  /-- Fx07 -/
  | ldVxDt (x : Reg)
  /-- Fx15 -/
  | ldDtVx (x : Reg)
  /-- Fx18 -/
  | ldStVx (x : Reg)
  /-- Fx1E -/
  | addI (x : Reg)
  /-- Fx29 -/
  | ldF (x : Reg)
  /-- Fx33 -/
  | ldB (x : Reg)
  /-- Fx55 -/
  | ldMemVx (x : Reg)
  /-- Fx65 -/
  | ldVxMem (x : Reg)
  deriving DecidableEq, Repr

/-- The names of R119 and R125 (from general knowledge, log entry 23): they carry no meaning of their own, and four
of them name several rows, told apart by the kinds of their operands. -/
inductive Mnemonic where
  | cls | ret | jp | call | se | sne | ld | add | or | and | xor | sub | shr | subn | shl | rnd | drw | sknp
  deriving DecidableEq, Repr

/-- One written operand (R125). Numbers are as written, not yet checked against their field. -/
inductive Operand where
  /-- `V0` to `VF` -/
  | v (index : Nat)
  /-- a byte `kk`, an address `nnn` or a nibble `n`, by its place -/
  | num (value : Nat)
  /-- `I` -/
  | i
  /-- `DT` -/
  | dt
  /-- `ST` -/
  | st
  /-- `F`: the font -/
  | f
  /-- `B`: binary-coded decimal -/
  | b
  /-- `[I]`: memory at I -/
  | atI
  deriving DecidableEq, Repr

/-- One written instruction: a mnemonic and its operands, the destination first (R125). There are no
pseudo-instructions and no directives (R126). -/
structure AsmLine where
  mnemonic : Mnemonic
  operands : List Operand
  deriving DecidableEq, Repr

end Sys2Proof
end

