-- ==== Sys2Proof/Decode.lean ====
section
/-! DEFINITION. Decoding (spec/30_encoding.md R111 to R115, R121), total on words and on bytes, and then the encoder
and the opcode table, written from the patterns of R112 and R120. -/

namespace Sys2Proof

/-- `cat(a, b) = a*256 + b` (spec/00_scope.md R11): the byte at the lower address is the high byte of an instruction
word (spec/20_memory.md R80). -/
def cat (high low : Byte) : Word := high ++ low

/-- The six fields of a word (R111); the decoder computes all six for every word. -/
structure Fields where
  op : Nibble
  x : Reg
  y : Reg
  n : Nibble
  kk : Byte
  nnn : Addr
  deriving DecidableEq, Repr

/-- R111: op = w[15:12], x = w[11:8], y = w[7:4], n = w[3:0], kk = w[7:0], nnn = w[11:0]. -/
def fieldsOf (w : Word) : Fields where
  op := w.extractLsb' 12 4
  x := w.extractLsb' 8 4
  y := w.extractLsb' 4 4
  n := w.extractLsb' 0 4
  kk := w.extractLsb' 0 8
  nnn := w.extractLsb' 0 12

/-- Why bits are no instruction. -/
inductive DecodeError where
  /-- the word matches no row of the opcode table (R122); the engine runs it as a diagnostic no-op (R301), safe -/
  | unlisted (w : Word)
  /-- fewer than two bytes were given: no word (R110). The engine never raises it, since a fetch always reads two
  bytes (R80); safe -/
  | truncated
  deriving DecidableEq, Repr

/-- R115, in its order. A word is an instruction only if all of its fixed digits match (R121). -/
def decode (w : Word) : Except DecodeError Instr :=
  let f := fieldsOf w
  match f.op with
  | 0x0#4 => if w = 0x00E0#16 then .ok .cls else if w = 0x00EE#16 then .ok .ret else .error (.unlisted w)
  | 0x1#4 => .ok (.jp f.nnn)
  | 0x2#4 => .ok (.call f.nnn)
  | 0x3#4 => .ok (.seImm f.x f.kk)
  | 0x4#4 => .ok (.sneImm f.x f.kk)
  | 0x5#4 => if f.n = 0x0#4 then .ok (.seReg f.x f.y) else .error (.unlisted w)
  | 0x6#4 => .ok (.ldImm f.x f.kk)
  | 0x7#4 => .ok (.addImm f.x f.kk)
  | 0x8#4 =>
    match f.n with
    | 0x0#4 => .ok (.ldReg f.x f.y)
    | 0x1#4 => .ok (.orReg f.x f.y)
    | 0x2#4 => .ok (.andReg f.x f.y)
    | 0x3#4 => .ok (.xorReg f.x f.y)
    | 0x4#4 => .ok (.addReg f.x f.y)
    | 0x5#4 => .ok (.sub f.x f.y)
    | 0x6#4 => .ok (.shr f.x f.y)
    | 0x7#4 => .ok (.subn f.x f.y)
    | 0xE#4 => .ok (.shl f.x f.y)
    | _ => .error (.unlisted w)
  | 0x9#4 => if f.n = 0x0#4 then .ok (.sneReg f.x f.y) else .error (.unlisted w)
  | 0xA#4 => .ok (.ldI f.nnn)
  | 0xB#4 => .error (.unlisted w)
  | 0xC#4 => .ok (.rnd f.x f.kk)
  | 0xD#4 => .ok (.drw f.x f.y f.n)
  | 0xE#4 => if f.kk = 0xA1#8 then .ok (.sknp f.x) else .error (.unlisted w)
  | _ =>
    match f.kk with
    | 0x07#8 => .ok (.ldVxDt f.x)
    | 0x15#8 => .ok (.ldDtVx f.x)
    | 0x18#8 => .ok (.ldStVx f.x)
    | 0x1E#8 => .ok (.addI f.x)
    | 0x29#8 => .ok (.ldF f.x)
    | 0x33#8 => .ok (.ldB f.x)
    | 0x55#8 => .ok (.ldMemVx f.x)
    | 0x65#8 => .ok (.ldVxMem f.x)
    | _ => .error (.unlisted w)

/-- The first instruction of a sequence of bytes as they lie in memory, and the bytes after it: every instruction is
two bytes, the high one first (R110; spec/20_memory.md R80). -/
def decodeBytes : List Byte → Except DecodeError (Instr × List Byte)
  | high :: low :: rest => (decode (cat high low)).map (fun i => (i, rest))
  | _ => .error .truncated

/-- The word of an instruction, by the layouts of R112: `op`, then the fields of its format, high bits first. The
ignored y of 8xy6 and 8xyE is kept, so that decoding gives it back. -/
def encode : Instr → Word
  | .cls => 0x00E0#16
  | .ret => 0x00EE#16
  | .jp nnn => 0x1#4 ++ nnn
  | .call nnn => 0x2#4 ++ nnn
  | .seImm x kk => 0x3#4 ++ x ++ kk
  | .sneImm x kk => 0x4#4 ++ x ++ kk
  | .seReg x y => 0x5#4 ++ x ++ y ++ 0x0#4
  | .ldImm x kk => 0x6#4 ++ x ++ kk
  | .addImm x kk => 0x7#4 ++ x ++ kk
  | .ldReg x y => 0x8#4 ++ x ++ y ++ 0x0#4
  | .orReg x y => 0x8#4 ++ x ++ y ++ 0x1#4
  | .andReg x y => 0x8#4 ++ x ++ y ++ 0x2#4
  | .xorReg x y => 0x8#4 ++ x ++ y ++ 0x3#4
  | .addReg x y => 0x8#4 ++ x ++ y ++ 0x4#4
  | .sub x y => 0x8#4 ++ x ++ y ++ 0x5#4
  | .shr x y => 0x8#4 ++ x ++ y ++ 0x6#4
  | .subn x y => 0x8#4 ++ x ++ y ++ 0x7#4
  | .shl x y => 0x8#4 ++ x ++ y ++ 0xE#4
  | .sneReg x y => 0x9#4 ++ x ++ y ++ 0x0#4
  | .ldI nnn => 0xA#4 ++ nnn
  | .rnd x kk => 0xC#4 ++ x ++ kk
  | .drw x y n => 0xD#4 ++ x ++ y ++ n
  | .sknp x => 0xE#4 ++ x ++ 0xA1#8
  | .ldVxDt x => 0xF#4 ++ x ++ 0x07#8
  | .ldDtVx x => 0xF#4 ++ x ++ 0x15#8
  | .ldStVx x => 0xF#4 ++ x ++ 0x18#8
  | .addI x => 0xF#4 ++ x ++ 0x1E#8
  | .ldF x => 0xF#4 ++ x ++ 0x29#8
  | .ldB x => 0xF#4 ++ x ++ 0x33#8
  | .ldMemVx x => 0xF#4 ++ x ++ 0x55#8
  | .ldVxMem x => 0xF#4 ++ x ++ 0x65#8

/-- A word's two bytes as they lie in memory, the high byte first (spec/20_memory.md R80). -/
def wordBytes (w : Word) : List Byte := [w.extractLsb' 8 8, w.extractLsb' 0 8]

/-- One row of the opcode table: a word is that instruction iff `w AND mask = pattern` (R120, where `pattern` is
called match). -/
structure OpcodeRow where
  pattern : Word
  mask : Word
  deriving DecidableEq, Repr

/-- A word is the row's instruction. -/
def OpcodeRow.holds (row : OpcodeRow) (w : Word) : Bool := w &&& row.mask == row.pattern

/-- The 31 rows of spec/opcode_table.json, in its order. -/
def opcodeRows : List OpcodeRow :=
  [⟨0x00E0, 0xFFFF⟩, ⟨0x00EE, 0xFFFF⟩, ⟨0x1000, 0xF000⟩, ⟨0x2000, 0xF000⟩, ⟨0x3000, 0xF000⟩, ⟨0x4000, 0xF000⟩,
   ⟨0x5000, 0xF00F⟩, ⟨0x6000, 0xF000⟩, ⟨0x7000, 0xF000⟩] ++
  [⟨0x8000, 0xF00F⟩, ⟨0x8001, 0xF00F⟩, ⟨0x8002, 0xF00F⟩, ⟨0x8003, 0xF00F⟩, ⟨0x8004, 0xF00F⟩, ⟨0x8005, 0xF00F⟩,
   ⟨0x8006, 0xF00F⟩, ⟨0x8007, 0xF00F⟩, ⟨0x800E, 0xF00F⟩, ⟨0x9000, 0xF00F⟩] ++
  [⟨0xA000, 0xF000⟩, ⟨0xC000, 0xF000⟩, ⟨0xD000, 0xF000⟩, ⟨0xE0A1, 0xF0FF⟩, ⟨0xF007, 0xF0FF⟩, ⟨0xF015, 0xF0FF⟩,
   ⟨0xF018, 0xF0FF⟩, ⟨0xF01E, 0xF0FF⟩, ⟨0xF029, 0xF0FF⟩, ⟨0xF033, 0xF0FF⟩, ⟨0xF055, 0xF0FF⟩, ⟨0xF065, 0xF0FF⟩]

/-- The row an instruction belongs to. -/
def Instr.row : Instr → OpcodeRow
  | .cls => ⟨0x00E0, 0xFFFF⟩
  | .ret => ⟨0x00EE, 0xFFFF⟩
  | .jp _ => ⟨0x1000, 0xF000⟩
  | .call _ => ⟨0x2000, 0xF000⟩
  | .seImm _ _ => ⟨0x3000, 0xF000⟩
  | .sneImm _ _ => ⟨0x4000, 0xF000⟩
  | .seReg _ _ => ⟨0x5000, 0xF00F⟩
  | .ldImm _ _ => ⟨0x6000, 0xF000⟩
  | .addImm _ _ => ⟨0x7000, 0xF000⟩
  | .ldReg _ _ => ⟨0x8000, 0xF00F⟩
  | .orReg _ _ => ⟨0x8001, 0xF00F⟩
  | .andReg _ _ => ⟨0x8002, 0xF00F⟩
  | .xorReg _ _ => ⟨0x8003, 0xF00F⟩
  | .addReg _ _ => ⟨0x8004, 0xF00F⟩
  | .sub _ _ => ⟨0x8005, 0xF00F⟩
  | .shr _ _ => ⟨0x8006, 0xF00F⟩
  | .subn _ _ => ⟨0x8007, 0xF00F⟩
  | .shl _ _ => ⟨0x800E, 0xF00F⟩
  | .sneReg _ _ => ⟨0x9000, 0xF00F⟩
  | .ldI _ => ⟨0xA000, 0xF000⟩
  | .rnd _ _ => ⟨0xC000, 0xF000⟩
  | .drw _ _ _ => ⟨0xD000, 0xF000⟩
  | .sknp _ => ⟨0xE0A1, 0xF0FF⟩
  | .ldVxDt _ => ⟨0xF007, 0xF0FF⟩
  | .ldDtVx _ => ⟨0xF015, 0xF0FF⟩
  | .ldStVx _ => ⟨0xF018, 0xF0FF⟩
  | .addI _ => ⟨0xF01E, 0xF0FF⟩
  | .ldF _ => ⟨0xF029, 0xF0FF⟩
  | .ldB _ => ⟨0xF033, 0xF0FF⟩
  | .ldMemVx _ => ⟨0xF055, 0xF0FF⟩
  | .ldVxMem _ => ⟨0xF065, 0xF0FF⟩

/-- The one word of an instruction whose bits are w, of which the table gives nbits; every instruction is one word
(R110), and the bits above nbits are 0. -/
def tableWord (nbits w : Nat) : Word := BitVec.ofNat 16 (w % 2 ^ nbits)

/-- The decoder's reading of that instruction, laid out in bytes as memory holds it. -/
def decodeTableWord (nbits w : Nat) : Option Instr :=
  match decodeBytes (wordBytes (tableWord nbits w)) with
  | .ok (i, _) => some i
  | .error _ => none

end Sys2Proof
end

