-- ==== Sys2Proof/Config.lean ====
section
/-! DEFINITION. What one engine is built with (spec/00_scope.md R8): the fixed numbers, the parameters a model takes as
an argument, the steps of its agents, and the two free values: the random input and the order of the steps. -/

namespace Sys2Proof.Config

/-- MEM_SIZE: addresses 0x000-0xFFF. -/
def memSize : Nat := 4096

/-- STACK_DEPTH. -/
def stackDepth : Nat := 16

/-- FB_W. -/
def fbWidth : Nat := 64

/-- FB_H. -/
def fbHeight : Nat := 32

/-- ROM_BASE, which is also the entry point (spec/70_reset_and_hazards.md R359). -/
def romBase : Nat := 0x200

/-- ROM_MAX = MEM_SIZE - ROM_BASE = 3584. -/
def romMax : Nat := memSize - romBase

/-- FONT_BASE is 0x000; FONT_GLYPHS times the bytes of one glyph. -/
def fontSize : Nat := 80

/-- KEYS. -/
def keys : Nat := 16

/-- RNG: the byte of the n-th draw from the port `rnd` (spec/10_state.md R63, spec/41_alu.md R200). It has no body, so
nothing can be proved of its values: a free byte for each draw (log entry 4, safe). -/
opaque rnd : Nat → Byte

end Sys2Proof.Config

namespace Sys2Proof.Machine

/-- One step of one agent, with what its port carries (spec/10_state.md R60, R61). -/
inductive AgentStep where
  /-- one fetch-decode-execute-render, or the kill check -/
  | cycle
  /-- one 60 Hz timer tick -/
  | tick
  /-- `key_in`: bit k is 1 when key k is down -/
  | keyChange (keyIn : BitVec 16)
  /-- `kill()` -/
  | killCmd
  /-- `boot(rom)` -/
  | bootCmd (rom : List Byte)
  deriving DecidableEq, Repr, Inhabited

end Sys2Proof.Machine

namespace Sys2Proof

/-- The agent whose step number n is, and what its port carries, in the free order of steps. It has no body, so nothing can be
proved of it: it may be any order the spec admits, one with ticks, key changes or commands without end among them
(spec/60_exceptions.md R313; log entry 3, safe). -/
opaque Config.agent : Nat → Machine.AgentStep

/-- FONT: the 80 bytes of the 16 glyphs (spec/20_memory.md R91, R92). -/
abbrev Font := Vector Byte 80

/-- STACK_BOUNDS_POLICY (spec/60_exceptions.md R305, R307). -/
inductive StackPolicy where
  | fault
  | wrap
  | clamp
  deriving DecidableEq, Repr

/-- CYCLE_SCHEDULE (R8; spec/44_keys_timers.md R281, spec/60_exceptions.md R313): which steps come once those that the state lists
are used up (log entry 3). -/
inductive CycleSchedule where
  /-- the free order `Config.agent`: of any agents, and without end -/
  | free
  /-- cycles and nothing else -/
  | cyclesOnly
  deriving DecidableEq, Repr

/-- The parameters of R8 that a model takes as an argument. They are data of the state, and no step changes them, so a
statement about every state holds for every font, every policy and every order of steps. -/
structure Params where
  font : Font
  stackPolicy : StackPolicy
  cycleSchedule : CycleSchedule
  deriving DecidableEq, Repr

end Sys2Proof
end

