-- ==== Sys2Proof/Machine/Font.lean ====
section
/-! DEFINITION. The default FONT parameter (spec/20_memory.md R92): the conventional hexadecimal digits, which the spec
takes from general knowledge (log entry 1, PRESUMED). No operation of the machine reads this table: they read
`params.font`, and only the reset state sets that field to it. -/

namespace Sys2Proof.Machine

/-- Glyphs 0 to F of R92, five rows each, top row first (R91). -/
def defaultFont : Font :=
  #v[0xF0, 0x90, 0x90, 0x90, 0xF0,  0x20, 0x60, 0x20, 0x20, 0x70,
     0xF0, 0x10, 0xF0, 0x80, 0xF0,  0xF0, 0x10, 0xF0, 0x10, 0xF0,
     0x90, 0x90, 0xF0, 0x10, 0x10,  0xF0, 0x80, 0xF0, 0x10, 0xF0,
     0xF0, 0x80, 0xF0, 0x90, 0xF0,  0xF0, 0x10, 0x20, 0x40, 0x40,
     0xF0, 0x90, 0xF0, 0x90, 0xF0,  0xF0, 0x90, 0xF0, 0x10, 0xF0,
     0xF0, 0x90, 0xF0, 0x90, 0x90,  0xE0, 0x90, 0xE0, 0x90, 0xE0,
     0xF0, 0x80, 0x80, 0x80, 0xF0,  0xE0, 0x90, 0x90, 0x90, 0xE0,
     0xF0, 0x80, 0xF0, 0x80, 0xF0,  0xF0, 0x80, 0xF0, 0x80, 0x80]

end Sys2Proof.Machine
end

