-- ==== Sys2Proof/Machine/State.lean ====
section
/-! DEFINITION. The state of the engine (spec/10_state.md R30), the parameters and inputs a run is given, the outputs of
the last step, and the state at the start of Running (R70). -/

namespace Sys2Proof.Machine

/-- FB[x][y]: the pixel at column x (0..63) and row y (0..31) (R42). -/
abbrev Framebuffer := Vector (Vector Bool 32) 64

/-- All 2048 pixels 0. -/
def blankFramebuffer : Framebuffer := Vector.replicate 64 (Vector.replicate 32 false)

/-- LIFE (R44). Booting and Stopping exist only inside a step (R61). -/
inductive Life where
  | stopped
  | booting
  | running
  | stopping
  deriving DecidableEq, Repr

/-- FAULT (R47). -/
inductive StackFault where
  | none
  | stackOverflow
  | stackUnderflow
  deriving DecidableEq, Repr

/-- The information of one `diag` event (R66): the PC of the undecodable word, and the word. -/
structure Diag where
  pc : Word
  word : Word
  deriving DecidableEq, Repr

/-- Everything the spec gives the engine, and, below it, what the model adds. -/
structure State where
  /-- V[0..15] (R31) -/
  v : Vector Byte 16
  /-- I (R34) -/
  i : Word
  /-- PC: during an instruction, that instruction's address (R35) -/
  pc : Word
  /-- SP: how many entries are live, 0..16 (R37) -/
  sp : Fin 17
  /-- STACK[0..15] (R38) -/
  stack : Vector Word 16
  /-- DT (R39) -/
  dt : Byte
  /-- ST (R40) -/
  st : Byte
  /-- MEM[0..4095] (R41): the cells that differ from what an unlisted address reads as (log entry 8) -/
  mem : List Host.Cell
  /-- FB (R42) -/
  fb : Framebuffer
  /-- KEY: bit k is KEY[k] (R43) -/
  key : BitVec 16
  /-- LIFE (R44) -/
  life : Life
  /-- KILL (R45) -/
  kill : Bool
  /-- FAULT (R47) -/
  fault : StackFault
  /-- FONT, STACK_BOUNDS_POLICY and CYCLE_SCHEDULE (spec/00_scope.md R8); no step changes them (log entries 1 to 3) -/
  params : Params
  /-- the model's own: the steps and inputs that come first, the oldest first; when it is empty, CYCLE_SCHEDULE gives the next
  step (log entry 3) -/
  schedule : List AgentStep
  /-- the model's own: how many steps were begun, the number of the next one in the free order (log entry 3) -/
  turn : Nat
  /-- the model's own: how many draws were taken from `rnd` (log entry 4) -/
  draws : Nat
  /-- the output `load_error` (R60): what the last boot command answered (log entry 6) -/
  loadError : Bool
  /-- the output `diag` (R66): the event of the last step, if it emitted one (log entry 6) -/
  diag : Option Diag
  /-- the output `fb_out` (R64): what the last step presented, if it presented a picture (log entry 6) -/
  frame : Option Framebuffer
  deriving DecidableEq, Repr

/-- Why a step can stop the model: never. Every condition of the engine (spec/60_exceptions.md R300) is a next state,
so there is no constructor. Nothing raises a fault; safe. -/
inductive Fault where
  deriving DecidableEq, Repr

/-- Why a step can be refused. -/
inductive Refusal where
  /-- raised by `exec` for an instruction that has no meaning yet: none is left, so nothing raises it; safe -/
  | notModelled (mnemonic : String)
  deriving DecidableEq, Repr

/-- What a step and a meaning answer. -/
abbrev Answer := Host.Outcome State Fault Refusal

/-- The engine at the start of Running (R70), right after Reset and an accepted boot, and not at power-on (that is
`State.powerOn`), with an empty program, the default parameters, and nothing scheduled but
cycles (log entries 1 to 4, 6 and 7). -/
def State.reset : State where
  v := Vector.replicate 16 0
  i := 0
  pc := 0x200
  sp := 0
  stack := Vector.replicate 16 0
  dt := 0
  st := 0
  mem := []
  fb := blankFramebuffer
  key := 0
  life := .running
  kill := false
  fault := .none
  params := { font := defaultFont, stackPolicy := .fault, cycleSchedule := .cyclesOnly }
  schedule := []
  turn := 0
  draws := 0
  loadError := false
  diag := none
  frame := none

end Sys2Proof.Machine
end

