-- ==== Sys2Proof/Machine/Ops.lean ====
section
/-! DEFINITION. The named operations over memory, registers, the return stack and PC, and what each condition does:
spec/10_state.md, spec/20_memory.md, spec/60_exceptions.md. Every access to memory, the general registers and the
return stack goes through one of these. -/

namespace Sys2Proof.Machine

/-! ### Memory (R80 to R90) -/

/-- A byte address reduced modulo 4096 (R82). -/
def Memory.reduce (a : Nat) : Nat := a % Config.memSize

/-- What an unlisted address below 4096 reads as: the contents at boot before a program is loaded, that is the font at
0x000-0x04F and 0 above (R89, spec/70_reset_and_hazards.md R352; log entry 8). -/
def Memory.unlisted (font : Font) (a : Nat) : Byte := if h : a < 80 then font[a] else 0

/-- The listed byte of an address, if it is listed. -/
def Memory.lookup : List Host.Cell → Nat → Option Byte
  | [], _ => none
  | c :: m, a => if c.1 = a then some c.2 else Memory.lookup m a

/-- The memory with address a holding v, where d is what a reads as when it is unlisted: the entry of a is set, put in
its place, or, for v = d, removed. -/
def Memory.put (d : Byte) : List Host.Cell → Nat → Byte → List Host.Cell
  | [], a, v => if v = d then [] else [(a, v)]
  | c :: m, a, v =>
    if a < c.1 then (if v = d then c :: m else (a, v) :: c :: m)
    else if a = c.1 then (if v = d then m else (a, v) :: m)
    else c :: Memory.put d m a v

/-- `MemRead(a, 1)` (spec/00_scope.md R13). -/
def Memory.read (font : Font) (m : List Host.Cell) (a : Nat) : Byte :=
  (Memory.lookup m (Memory.reduce a)).getD (Memory.unlisted font (Memory.reduce a))

/-- `MemWrite(a, 1, v)` (spec/00_scope.md R13). -/
def Memory.write (font : Font) (m : List Host.Cell) (a : Nat) (v : Byte) : List Host.Cell :=
  Memory.put (Memory.unlisted font (Memory.reduce a)) m (Memory.reduce a) v

/-- The one canonical form: addresses strictly rising, each below 4096, and no entry equal to what its address reads as
when it is unlisted. -/
abbrev Memory.wf (font : Font) (m : List Host.Cell) : Prop :=
  m.Pairwise (fun c d => c.1 < d.1) ∧ ∀ c ∈ m, c.1 < 4096 ∧ c.2 ≠ Memory.unlisted font c.1

/-- `MEM[a mod 4096]`. -/
def State.readByte (s : State) (a : Nat) : Byte := Memory.read s.params.font s.mem a

/-- `MEM[a mod 4096] <- v`. -/
def State.writeByte (s : State) (a : Nat) (v : Byte) : State :=
  { s with mem := Memory.write s.params.font s.mem a v }

/-- The memory is in its canonical form. -/
abbrev State.memWf (s : State) : Prop := Memory.wf s.params.font s.mem

/-- The fetched word `MemRead(PC, 2)`: big-endian, both addresses reduced (R80, R84). -/
def State.fetchWord (s : State) : Word := cat (s.readByte s.pc.toNat) (s.readByte (s.pc.toNat + 1))

/-! ### Registers (R31 to R36) -/

/-- `V[x]`. No register is hardwired (R31). -/
def State.reg (s : State) (x : Reg) : Byte := s.v[x.toNat]'x.isLt

/-- `V[x] <- b`. -/
def State.setReg (s : State) (x : Reg) (b : Byte) : State := { s with v := s.v.set x.toNat b x.isLt }

/-- `I <- w`. -/
def State.setI (s : State) (w : Word) : State := { s with i := w }

/-- `PC <- next_pc` at the end of the cycle (spec/30_encoding.md R130). -/
def State.setPc (s : State) (w : Word) : State := { s with pc := w }

/-- The default `next_pc = (PC + 2) mod 2^16` (R35; spec/30_encoding.md R131). -/
def State.advance (s : State) : State := s.setPc (s.pc + 2)

/-- A skip: `(PC + 4) mod 2^16` if its condition holds, and the default if not; the skipped bytes are not looked at
(spec/30_encoding.md R131, R133). -/
def State.skipIf (s : State) (c : Bool) : State := if c then s.setPc (s.pc + 4) else s.advance

/-! ### The return stack (R37, R38; spec/60_exceptions.md R305, R307) -/

/-- A push: the entry is stored, then SP is incremented; with 16 live entries, what STACK_BOUNDS_POLICY says. -/
def State.push (s : State) (ret : Word) : Except StackFault State :=
  if h : s.sp.val < 16 then
    .ok { s with stack := s.stack.set s.sp.val ret h, sp := ⟨s.sp.val + 1, Nat.succ_lt_succ h⟩ }
  else match s.params.stackPolicy with
    | .fault => .error .stackOverflow
    | .wrap => .ok { s with stack := s.stack.set 0 ret, sp := 1 }
    | .clamp => .ok { s with stack := s.stack.set 15 ret, sp := 16 }

/-- A pop: SP is decremented, then the entry is read and kept where it is; with no live entry, what STACK_BOUNDS_POLICY
says. -/
def State.pop (s : State) : Except StackFault (Word × State) :=
  if h : 0 < s.sp.val then
    .ok (s.stack[s.sp.val - 1]'(by have := s.sp.isLt; omega), { s with sp := ⟨s.sp.val - 1, by have := s.sp.isLt; omega⟩ })
  else match s.params.stackPolicy with
    | .fault => .error .stackUnderflow
    | .wrap => .ok (s.stack[15], { s with sp := 15 })
    | .clamp => .ok (s.stack[0], { s with sp := 0 })

/-! ### Conditions (spec/60_exceptions.md)

The engine has no handler, saves nothing and returns from nothing (R310, R311), so the two raises below are all there is
of taking an exception. -/

/-- `raise StackOverflow(PC)`, `raise StackUnderflow(PC)`: FAULT takes the condition's name and nothing else changes, so
PC keeps the faulting instruction's address (R305; spec/30_encoding.md R132). -/
def State.raiseStackFault (s : State) (f : StackFault) : State := { s with fault := f }

/-- `raise DecodeError(PC, w)`: one `diag` event and no other change (R301; spec/10_state.md R66). -/
def State.raiseDecodeError (s : State) (w : Word) : State := { s with diag := some ⟨s.pc, w⟩ }

/-! ### The random input (spec/10_state.md R63) -/

/-- `draw RNG()`: one free byte, and the draw is used up (log entry 4). -/
def State.drawRnd (s : State) : Byte × State := (Config.rnd s.draws, { s with draws := s.draws + 1 })

end Sys2Proof.Machine
end

