-- ==== Sys2Proof/Machine/Agents.lean ====
section
/-! DEFINITION. The steps of the agents other than the engine: the timer, the key input and the host's commands
(spec/10_state.md R61, R62, R71; spec/44_keys_timers.md R280; spec/70_reset_and_hazards.md R350 to R359), which step
comes next, and the engine at power-on. -/

namespace Sys2Proof.Machine

/-- R61: when each step is enabled. -/
def AgentStep.enabled (s : State) : AgentStep → Bool
  | .cycle => decide (s.life = .running ∧ (s.kill = true ∨ s.fault = .none))
  | .tick => decide (s.life = .running)
  | .keyChange _ => decide (s.life = .running)
  | .killCmd => true
  | .bootCmd _ => true

/-- The next step: the oldest scheduled one, and when nothing is scheduled the one CYCLE_SCHEDULE gives. With the free order every
order of steps is admitted, endless ones too (spec/60_exceptions.md R313). DESIGN CHOICE, log entry 3: the list and the two values
of the parameter; a claim made only for states with cyclesOnly is unsafe where it says that something happens in the end. -/
def State.nextAgent (s : State) : AgentStep :=
  match s.schedule with
  | a :: _ => a
  | [] =>
    match s.params.cycleSchedule with
    | .free => Config.agent s.turn
    | .cyclesOnly => .cycle

/-- The engine before its first boot (R71; spec/10_state.md R44, R51): LIFE is Stopped, the initial state, and every other
element has no specified value, so it is whatever the argument holds, and a claim about power-on is a claim for every argument
(log entry 7). -/
def State.powerOn (unspecified : State) : State := { unspecified with life := .stopped }

/-- The state a step starts from: its entry is taken off the schedule, the step is counted, and the events of the step before it are gone
from the outputs (log entry 6). -/
def State.begin (s : State) : State :=
  { s with schedule := s.schedule.tail, turn := s.turn + 1, diag := none, frame := none }

/-- A timer counts down and stops at 0 (R280). -/
def countDown (t : Byte) : Byte := BitVec.ofNat 8 (t.toNat - 1)

/-- Tick (R280). -/
def State.tick (s : State) : State := { s with dt := countDown s.dt, st := countDown s.st }

/-- KeyChange (R62). -/
def State.keyChange (s : State) (keyIn : BitVec 16) : State := { s with key := keyIn }

/-- KillCmd (R354, R357). -/
def State.killCmd (s : State) : State := if s.life = .running then { s with kill := true } else s

/-- StopSession (R355): ticks and key changes stop with LIFE, since both need LIFE = Running. -/
def State.stopSession (s : State) : State :=
  let stopping := { s with life := .stopping }
  let cleared := { stopping with kill := false }
  { cleared with life := .stopped }

/-- Reset (R352). Memory with nothing listed is zero but for FONT at [0, 80), which is what the rule's two loops over MEM
leave (log entry 8). -/
def State.resetAll (s : State) : State :=
  { s with
    mem := []
    v := Vector.replicate 16 0
    stack := Vector.replicate 16 0
    key := 0
    i := 0
    sp := 0
    dt := 0
    st := 0
    fb := blankFramebuffer
    kill := false
    fault := .none }

/-- The bytes of a program from address a on. They go to distinct addresses, so it cannot be seen that the last one is
written first. -/
def State.loadFrom (s : State) (a : Nat) : List Byte → State
  | [] => s
  | b :: rom => (s.loadFrom (a + 1) rom).writeByte a b

/-- LoadProgram (R353). -/
def State.loadProgram (s : State) (rom : List Byte) : State := s.loadFrom Config.romBase rom

/-- BootCmd (R351, R356): the implicit stop, then the length check, then Booting, Reset, LoadProgram and Running. A LoadError
shows as the one bit that R351 sets and R60 (spec/10_state.md) gives the output load_error. DESIGN CHOICE, log entry 28: the
length, which R300 (spec/60_exceptions.md) calls the condition's information, is not kept. -/
def State.bootCmd (s : State) (rom : List Byte) : State :=
  let s1 := if s.life = .running then s.stopSession else s
  if rom.length > Config.romMax then { s1 with loadError := true }
  else
    let booting := { s1 with life := .booting }
    let loaded := booting.resetAll.loadProgram rom
    let entered := loaded.setPc (BitVec.ofNat 16 Config.romBase)
    { entered with loadError := false, life := .running }

end Sys2Proof.Machine
end

