-- ==== Sys2Proof/Machine/Flags.lean ====
section
/-! DEFINITION. The flags VF takes (spec/10_state.md R49) and the order of the two writes (R50, spec/41_alu.md R182). -/

namespace Sys2Proof.Machine

/-- `bool(c)` as a byte (spec/00_scope.md R11). -/
def flagByte (c : Bool) : Byte := if c then 1 else 0

/-- 8xy4: `Vx + Vy > 255` (R194). -/
def carryOut (a b : Byte) : Bool := decide (a.toNat + b.toNat > 255)

/-- 8xy5 and 8xy7: the minuend is strictly greater (R195, R197). -/
def noBorrow (a b : Byte) : Bool := decide (a.toNat > b.toNat)

/-- 8xy6: the bit shifted out on the right (R196). -/
def lowBit (a : Byte) : Bool := a.getLsbD 0

/-- 8xyE: the bit shifted out on the left (R198). -/
def highBit (a : Byte) : Bool := a.getLsbD 7

/-- Dxyn: one pixel goes from 1 to 0 (spec/43_display.md R256). -/
def pixelCollides (old sprite : Bool) : Bool := old && sprite

/-- `V[x] <- result`, then `V[15] <- flag`: with x = 15, VF ends as the flag (R182, log entry 18). -/
def State.setRegAndFlag (s : State) (x : Reg) (result : Byte) (flag : Bool) : State :=
  (s.setReg x result).setReg VF (flagByte flag)

end Sys2Proof.Machine
end

