-- ==== Sys2Proof/Machine/Alu.lean ====
section
/-! DEFINITION. 6xkk, 7xkk, 8xy0 to 8xy7, 8xyE and Cxkk (spec/41_alu.md). Sums and differences are computed exactly and
then reduced modulo 256 (R181). -/

namespace Sys2Proof.Machine

/-- `(a + b) mod 256`. -/
def addMod (a b : Byte) : Byte := BitVec.ofNat 8 (a.toNat + b.toNat)

/-- `(a - b) mod 256`, that is `(a + 256 - b) mod 256`. -/
def subMod (a b : Byte) : Byte := BitVec.ofNat 8 (a.toNat + 256 - b.toNat)

/-- 6xkk (R185). -/
def execLdImm (x : Reg) (kk : Byte) (s : State) : Answer := .next (s.setReg x kk).advance

/-- 7xkk (R186): no flag. -/
def execAddImm (x : Reg) (kk : Byte) (s : State) : Answer := .next (s.setReg x (addMod (s.reg x) kk)).advance

/-- 8xy0 (R190). -/
def execLdReg (x y : Reg) (s : State) : Answer := .next (s.setReg x (s.reg y)).advance

/-- 8xy1 (R191): VF is not reset. -/
def execOrReg (x y : Reg) (s : State) : Answer := .next (s.setReg x (s.reg x ||| s.reg y)).advance

/-- 8xy2 (R192). -/
def execAndReg (x y : Reg) (s : State) : Answer := .next (s.setReg x (s.reg x &&& s.reg y)).advance

/-- 8xy3 (R193). -/
def execXorReg (x y : Reg) (s : State) : Answer := .next (s.setReg x (s.reg x ^^^ s.reg y)).advance

/-- 8xy4 (R194). -/
def execAddReg (x y : Reg) (s : State) : Answer :=
  .next (s.setRegAndFlag x (addMod (s.reg x) (s.reg y)) (carryOut (s.reg x) (s.reg y))).advance

/-- 8xy5 (R195): Vx - Vy. -/
def execSub (x y : Reg) (s : State) : Answer :=
  .next (s.setRegAndFlag x (subMod (s.reg x) (s.reg y)) (noBorrow (s.reg x) (s.reg y))).advance

/-- 8xy6 (R196): y is ignored. -/
def execShr (x _y : Reg) (s : State) : Answer :=
  .next (s.setRegAndFlag x (s.reg x >>> 1) (lowBit (s.reg x))).advance

/-- 8xy7 (R197): Vy - Vx. -/
def execSubn (x y : Reg) (s : State) : Answer :=
  .next (s.setRegAndFlag x (subMod (s.reg y) (s.reg x)) (noBorrow (s.reg y) (s.reg x))).advance

/-- 8xyE (R198): y is ignored. -/
def execShl (x _y : Reg) (s : State) : Answer :=
  .next (s.setRegAndFlag x (s.reg x <<< 1) (highBit (s.reg x))).advance

/-- Cxkk (R200): one draw, masked. -/
def execRnd (x : Reg) (kk : Byte) (s : State) : Answer :=
  .next (s.drawRnd.2.setReg x (s.drawRnd.1 &&& kk)).advance

end Sys2Proof.Machine
end

