-- ==== Sys2Proof/Machine/Operands.lean ====
section
/-! DEFINITION. Every operand form: the immediates (spec/30_encoding.md R113), the one addressing mode
(spec/42_index_memory.md R230), the key index (spec/44_keys_timers.md R275), and the groups of bytes that Fx33, Fx55 and
Fx65 move. -/

namespace Sys2Proof.Machine

/-- `zext_16(nnn)`. -/
def addrWord (nnn : Addr) : Word := nnn.setWidth 16

/-- The address of byte k of an access through I, computed in full; each access reduces it modulo 4096 (R230; spec/20_memory.md
R82). -/
def State.indexed (s : State) (k : Nat) : Nat := s.i.toNat + k

/-- `KEY[V[x] mod 16]` (R275, log entry 19). -/
def State.keyDown (s : State) (x : Reg) : Bool := s.key.getLsbD ((s.reg x).toNat % Config.keys)

/-- The decimal digits of a byte: hundreds, tens, ones (R233). -/
def hundreds (v : Byte) : Byte := BitVec.ofNat 8 (v.toNat / 100)
def tens (v : Byte) : Byte := BitVec.ofNat 8 (v.toNat / 10 % 10)
def ones (v : Byte) : Byte := BitVec.ofNat 8 (v.toNat % 10)

/-- `for k in 0 .. count-1: MemWrite(I + k, 1, V[k])` (R234). -/
def State.dumpRegs (s : State) : Nat → State
  | 0 => s
  | k + 1 => (s.dumpRegs k).writeByte (s.indexed k) (s.reg (BitVec.ofNat 4 k))

/-- `for k in 0 .. count-1: V[k] <- MemRead(I + k, 1)` (R235). -/
def State.loadRegs (s : State) : Nat → State
  | 0 => s
  | k + 1 => (s.loadRegs k).setReg (BitVec.ofNat 4 k) (s.readByte (s.indexed k))

end Sys2Proof.Machine
end

