-- ==== Sys2Proof/Machine/ControlFlow.lean ====
section
/-! DEFINITION. 00EE, 1nnn, 2nnn, 3xkk, 4xkk, 5xy0 and 9xy0 (spec/40_control_flow.md). A meaning gives the whole effect
of its instruction's cycle on the engine, `PC <- next_pc` included (log entry 10). -/

namespace Sys2Proof.Machine

/-- 00EE (R151): the popped entry whole is the new PC; StackUnderflow with SP = 0. -/
def execRet (s : State) : Answer :=
  match s.pop with
  | .ok (target, t) => .next (t.setPc target)
  | .error f => .next (s.raiseStackFault f)

/-- 1nnn (R152). -/
def execJp (nnn : Addr) (s : State) : Answer := .next (s.setPc (addrWord nnn))

/-- 2nnn (R153): `(PC + 2) mod 2^16` is pushed; StackOverflow with SP = 16. -/
def execCall (nnn : Addr) (s : State) : Answer :=
  match s.push (s.pc + 2) with
  | .ok t => .next (t.setPc (addrWord nnn))
  | .error f => .next (s.raiseStackFault f)

/-- 3xkk (R155). -/
def execSeImm (x : Reg) (kk : Byte) (s : State) : Answer := .next (s.skipIf (s.reg x == kk))

/-- 4xkk (R156). -/
def execSneImm (x : Reg) (kk : Byte) (s : State) : Answer := .next (s.skipIf (s.reg x != kk))

/-- 5xy0 (R157). -/
def execSeReg (x y : Reg) (s : State) : Answer := .next (s.skipIf (s.reg x == s.reg y))

/-- 9xy0 (R158). -/
def execSneReg (x y : Reg) (s : State) : Answer := .next (s.skipIf (s.reg x != s.reg y))

end Sys2Proof.Machine
end

