-- ==== Sys2Proof/Machine/Display.lean ====
section
/-! DEFINITION. 00E0 and Dxyn (spec/43_display.md), with the pixel operations they share. -/

namespace Sys2Proof.Machine

/-- `FB[px mod 64][py mod 32]`: each coordinate wraps on its own (R254). -/
def Framebuffer.pixel (fb : Framebuffer) (px py : Nat) : Bool :=
  (fb[px % 64]'(Nat.mod_lt _ (by decide)))[py % 32]'(Nat.mod_lt _ (by decide))

/-- `FB[px mod 64][py mod 32] <- b`. -/
def Framebuffer.setPixel (fb : Framebuffer) (px py : Nat) (b : Bool) : Framebuffer :=
  fb.set (px % 64) ((fb[px % 64]'(Nat.mod_lt _ (by decide))).set (py % 32) b (Nat.mod_lt _ (by decide)))
    (Nat.mod_lt _ (by decide))

/-- A picture and the collision seen so far. -/
abbrev Drawing := Framebuffer × Bool

/-- One sprite bit (R253): the collision is noted before the XOR. -/
def Drawing.bit (d : Drawing) (px py : Nat) (sprite : Bool) : Drawing :=
  (Framebuffer.setPixel d.1 px py (Framebuffer.pixel d.1 px py ^^ sprite),
    d.2 || pixelCollides (Framebuffer.pixel d.1 px py) sprite)

/-- The first `count` bits of one sprite byte, bit 7 in the first column (R252, log entry 11). -/
def Drawing.row (d : Drawing) (b : Byte) (x0 y : Nat) : Nat → Drawing
  | 0 => d
  | c + 1 => Drawing.bit (Drawing.row d b x0 y c) (x0 + c) y (b.getLsbD (7 - c))

/-- The first `count` rows of the sprite at I, drawn from column x0 and row y0 on (R253, R255). -/
def State.drawing (s : State) (x0 y0 : Nat) : Nat → Drawing
  | 0 => (s.fb, false)
  | r + 1 => Drawing.row (s.drawing x0 y0 r) (s.readByte (s.indexed r)) x0 (y0 + r) 8

/-- 00E0 (R251). -/
def execCls (s : State) : Answer := .next { s with fb := blankFramebuffer }.advance

/-- Dxyn (R253): the coordinates are read before VF is written (R256), and VF is written for n = 0 too (R257). -/
def execDrw (x y : Reg) (n : Nibble) (s : State) : Answer :=
  let d := s.drawing (s.reg x).toNat (s.reg y).toNat n.toNat
  .next ({ s with fb := d.1 }.setReg VF (flagByte d.2)).advance

end Sys2Proof.Machine
end

