-- ==== Sys2Proof/Machine/IndexMemory.lean ====
section
/-! DEFINITION. Annn, Fx1E, Fx29, Fx33, Fx55 and Fx65 (spec/42_index_memory.md). -/

namespace Sys2Proof.Machine

/-- Annn (R221). -/
def execLdI (nnn : Addr) (s : State) : Answer := .next (s.setI (addrWord nnn)).advance

/-- Fx1E (R231): modulo 2^16, no flag. -/
def execAddI (x : Reg) (s : State) : Answer := .next (s.setI (BitVec.ofNat 16 (s.i.toNat + (s.reg x).toNat))).advance

/-- Fx29 (R232): the whole register times 5. -/
def execLdF (x : Reg) (s : State) : Answer := .next (s.setI (BitVec.ofNat 16 ((s.reg x).toNat * 5))).advance

/-- Fx33 (R233): hundreds, tens, ones at I, I + 1, I + 2. -/
def execLdB (x : Reg) (s : State) : Answer :=
  .next (((s.writeByte (s.indexed 0) (hundreds (s.reg x))).writeByte (s.indexed 1) (tens (s.reg x))).writeByte
    (s.indexed 2) (ones (s.reg x))).advance

/-- Fx55 (R234): V0 to Vx inclusive; I is kept (log entry 20). -/
def execLdMemVx (x : Reg) (s : State) : Answer := .next (s.dumpRegs (x.toNat + 1)).advance

/-- Fx65 (R235): V0 to Vx inclusive; I is kept (log entry 20). -/
def execLdVxMem (x : Reg) (s : State) : Answer := .next (s.loadRegs (x.toNat + 1)).advance

end Sys2Proof.Machine
end

