-- ==== Sys2Proof/Machine/KeysTimers.lean ====
section
/-! DEFINITION. ExA1, Fx07, Fx15 and Fx18 (spec/44_keys_timers.md). -/

namespace Sys2Proof.Machine

/-- ExA1 (R275): skip if the key is up. -/
def execSknp (x : Reg) (s : State) : Answer := .next (s.skipIf (!s.keyDown x))

/-- Fx07 (R276). -/
def execLdVxDt (x : Reg) (s : State) : Answer := .next (s.setReg x s.dt).advance

/-- Fx15 (R277). -/
def execLdDtVx (x : Reg) (s : State) : Answer := .next { s with dt := s.reg x }.advance

/-- Fx18 (R278). -/
def execLdStVx (x : Reg) (s : State) : Answer := .next { s with st := s.reg x }.advance

end Sys2Proof.Machine
end

