-- ==== Sys2Proof/Machine/Cycle.lean ====
section
/-! DEFINITION. The instruction cycle (spec/30_encoding.md R130), and one step of whichever agent comes next. -/

namespace Sys2Proof.Machine

/-- `fb_out <- FB` (spec/10_state.md R64). -/
def State.render (s : State) : State := { s with frame := some s.fb }

/-- The end of a cycle that fetched: the picture is presented, whatever the instruction did. -/
def presenting : Answer → Answer
  | .next s => .next s.render
  | .fault f => .fault f
  | .refused r => .refused r

/-- R130. An instruction's meaning includes `PC <- next_pc`; a decode error is a diagnostic and the default `next_pc`
(spec/60_exceptions.md R301). The rule's test of FAULT before that write is the meanings' own: a cycle that fetches
starts with FAULT = None, and the two instructions that set FAULT leave PC alone (log entry 10). -/
def State.cycle (s : State) : Answer :=
  if s.kill then .next s.stopSession
  else match decode s.fetchWord with
    | .error _ => presenting (.next (s.raiseDecodeError s.fetchWord).advance)
    | .ok i => presenting (exec i s)

/-- What each agent's step does (spec/10_state.md R61). -/
def State.act (s : State) : AgentStep → Answer
  | .cycle => s.cycle
  | .tick => .next s.tick
  | .keyChange keyIn => .next (s.keyChange keyIn)
  | .killCmd => .next s.killCmd
  | .bootCmd rom => .next (s.bootCmd rom)

/-- One step of one agent; a step that is not enabled does nothing (spec/10_state.md R61, log entry 5). -/
def State.perform (s : State) (a : AgentStep) : Answer := if a.enabled s then s.act a else .next s

/-- The schedule with a cycle at its head; an empty one already stands for cycles when CYCLE_SCHEDULE is cyclesOnly. -/
def withCycleFirst (c : CycleSchedule) (schedule : List AgentStep) : List AgentStep :=
  match c, schedule with
  | .cyclesOnly, [] => []
  | _, .cycle :: rest => .cycle :: rest
  | _, other => .cycle :: other

/-- A word stored where the next fetch reads, and the engine ready to fetch it (log entry 9). -/
def State.placeWord (s : State) (w : Word) : State :=
  let stored := (s.writeByte s.pc.toNat (w.extractLsb' 8 8)).writeByte (s.pc.toNat + 1) (w.extractLsb' 0 8)
  { stored with life := .running, kill := false, fault := .none, schedule := withCycleFirst s.params.cycleSchedule s.schedule }

end Sys2Proof.Machine
end

