-- ==== Sys2Proof/Machine/Step.lean ====
section
/-! DEFINITION. One atomic step of the engine and its agents (spec/10_state.md R61), and the host's way to place an
instruction. -/

namespace Sys2Proof.Machine

/-- The agent whose turn it is takes its step. -/
def step (s : State) : Host.Outcome State Fault Refusal := s.begin.perform s.nextAgent

/-- s with the instruction whose bits are w placed so that the very next step fetches and runs it. -/
def State.withFetchWord (s : State) (nbits w : Nat) : State := s.placeWord (tableWord nbits w)

end Sys2Proof.Machine
end

