-- ==== Sys2Proof/Machine/Ports.lean ====
section
/-! DEFINITION. The outputs that are functions of the state (spec/10_state.md R60, R65, R67). The others are fields of
it: `loadError`, `diag`, `frame` (fb_out) and `fault`. -/

namespace Sys2Proof.Machine

/-- `tone = bool(ST ≠ 0)` (R65). -/
def State.tone (s : State) : Bool := s.st != 0

/-- `is_running = bool(LIFE = Running)`. -/
def State.isRunning (s : State) : Bool := decide (s.life = .running)

/-- `is_killed = bool(LIFE = Stopped)`. -/
def State.isKilled (s : State) : Bool := decide (s.life = .stopped)

end Sys2Proof.Machine
end

