-- ==== Sys2Proof/Safety.lean ====
section
/-! DEFINITION. The terms in which claims about the engine are made: what it means to be about to run an instruction,
how a run ends (spec/70_reset_and_hazards.md R375), the invariant of every step, the frames, and the sprite's picture as
a relation. -/

namespace Sys2Proof.Machine

/-- The next step fetches and runs an instruction: it is a Cycle, it is enabled (spec/10_state.md R61), and no kill is
waiting to be observed. -/
structure State.Ready (s : State) : Prop where
  cycleNext : s.nextAgent = .cycle
  running : s.life = .running
  noKill : s.kill = false
  noFault : s.fault = .none

/-- The next step runs instruction i. -/
def State.Runs (s : State) (i : Instr) : Prop := s.Ready ∧ decode s.fetchWord = .ok i

/-- Parked at a: a successful end, a jump to itself (R375). -/
structure State.Parked (s : State) (a : Addr) : Prop where
  running : s.life = .running
  noFault : s.fault = .none
  atJump : s.pc = addrWord a
  jumpsToItself : decode s.fetchWord = .ok (.jp a)

/-- A failed end (R375). -/
def State.Faulted (s : State) : Prop := s.fault ≠ .none

/-- What every step keeps, from the first accepted boot on (before it, `State.powerOn` may hold anything): memory is canonical,
LIFE is Stopped or Running between steps (spec/10_state.md R61), a kill is pending only in a running session (R355), and a
stack fault stands only where its policy raises it, with SP at the bound and PC still at the instruction that raised it
(spec/60_exceptions.md R305, R307). -/
structure State.Inv (s : State) : Prop where
  memory : s.memWf
  life : s.life = .stopped ∨ s.life = .running
  kill : s.kill = true → s.life = .running
  policy : s.fault ≠ .none → s.params.stackPolicy = .fault
  overflow : s.fault = .stackOverflow → s.sp = 16 ∧ ∃ nnn, decode s.fetchWord = .ok (.call nnn)
  underflow : s.fault = .stackUnderflow → s.sp = 0 ∧ decode s.fetchWord = .ok .ret

/-- Every byte of memory reads as before. -/
def MemSame (s t : State) : Prop := ∀ a, t.readByte a = s.readByte a

/-- Every general register but the listed ones reads as before. -/
def RegsSameBut (changed : List Reg) (s t : State) : Prop := ∀ r, r ∉ changed → t.reg r = s.reg r

/-- The general registers an instruction may write: its destinations, and VF for the five flag instructions of 8xy_ and for
Dxyn (spec/10_state.md R49). -/
def WritesReg (i : Instr) (r : Reg) : Prop :=
  match i with
  | .cls => False
  | .ret => False
  | .jp _ => False
  | .call _ => False
  | .seImm _ _ => False
  | .sneImm _ _ => False
  | .seReg _ _ => False
  | .ldImm x _ => r = x
  | .addImm x _ => r = x
  | .ldReg x _ => r = x
  | .orReg x _ => r = x
  | .andReg x _ => r = x
  | .xorReg x _ => r = x
  | .addReg x _ => r = x ∨ r = VF
  | .sub x _ => r = x ∨ r = VF
  | .shr x _ => r = x ∨ r = VF
  | .subn x _ => r = x ∨ r = VF
  | .shl x _ => r = x ∨ r = VF
  | .sneReg _ _ => False
  | .ldI _ => False
  | .rnd x _ => r = x
  | .drw _ _ _ => r = VF
  | .sknp _ => False
  | .ldVxDt x => r = x
  | .ldDtVx _ => False
  | .ldStVx _ => False
  | .addI _ => False
  | .ldF _ => False
  | .ldB _ => False
  | .ldMemVx _ => False
  | .ldVxMem x => r ≤ x

/-- Nothing but PC may differ. -/
def OnlyPc (s t : State) : Prop := t = { s with pc := t.pc }

/-- Nothing but the general registers and PC may differ. -/
def OnlyRegs (s t : State) : Prop := t = { s with v := t.v, pc := t.pc }

/-- Nothing but I and PC may differ. -/
def OnlyIndex (s t : State) : Prop := t = { s with i := t.i, pc := t.pc }

/-- Nothing but the return stack, SP and PC may differ. -/
def OnlyStack (s t : State) : Prop := t = { s with stack := t.stack, sp := t.sp, pc := t.pc }

/-- Nothing but memory and PC may differ. -/
def OnlyMemory (s t : State) : Prop := t = { s with mem := t.mem, pc := t.pc }

/-- i reads nothing but the general registers and the random input, changes nothing but the listed registers, PC and the count
of draws, and always completes (spec/41_alu.md R180). -/
def RegistersOnly (changed : List Reg) (i : Instr) : Prop :=
  ∀ s r : State, r.v = s.v → r.draws = s.draws → ∃ t u, exec i s = .next t ∧ exec i r = .next u ∧ u.v = t.v ∧
    RegsSameBut changed s t ∧ t = { s with v := t.v, pc := t.pc, draws := t.draws }

/-- Pixel (px, py) lies under a set bit of the n-row sprite at I drawn at (x0, y0) (spec/43_display.md R253): bit c of row r
is bit 7 - c of its byte, and falls on column (x0 + c) mod 64 and row (y0 + r) mod 32. -/
def SpriteSets (s : State) (x0 y0 n px py : Nat) : Prop :=
  ∃ r c, r < n ∧ c < 8 ∧ px = (x0 + c) % 64 ∧ py = (y0 + r) % 32 ∧ (s.readByte (s.indexed r)).getLsbD (7 - c) = true

/-- A run from the first state to the second in which n ticks occur, no accepted boot comes, and no instruction of the form
`writer x` runs (spec/44_keys_timers.md R282): what other steps come between the ticks is free. -/
inductive TickRun (writer : Reg → Instr) : Nat → State → State → Prop where
  | here (s : State) : TickRun writer 0 s s
  | tick (n : Nat) (s t u : State) (before : TickRun writer n s t) (isTick : t.nextAgent = .tick)
      (running : t.life = .running) (h : step t = .next u) : TickRun writer (n + 1) s u
  | other (n : Nat) (s t u : State) (before : TickRun writer n s t) (noTick : t.nextAgent = .tick → t.life ≠ .running)
      (noBoot : ∀ rom, t.nextAgent = .bootCmd rom → 3584 < rom.length) (noWrite : ∀ x, ¬t.Runs (writer x))
      (h : step t = .next u) : TickRun writer n s u

/-- The answer after n steps; the first one that is no next state, if there is one, ends the run. -/
def stepsFrom (s : State) : Nat → Answer
  | 0 => .next s
  | n + 1 => match step s with
    | .next t => stepsFrom t n
    | .fault f => .fault f
    | .refused r => .refused r

/-- A run of steps from the first state to the second, with at least `base` live stack entries in every state of it. -/
inductive StepsAbove (base : Nat) : State → State → Prop where
  | here (s : State) (h : base ≤ s.sp.val) : StepsAbove base s s
  | more (s t u : State) (before : StepsAbove base s t) (h : step t = .next u) (above : base ≤ u.sp.val) :
      StepsAbove base s u

end Sys2Proof.Machine
end

