-- ==== Sys2Proof/WellFormed.lean ====
section
/-! DEFINITION. Which written lines are instructions (spec/30_encoding.md R125): the mnemonic has a row with these kinds
of operands, and every number fits its field. An `Instr` itself needs no check: its operands have their fields' widths
(R33, R113). -/

namespace Sys2Proof

/-- A register number is one of V0 to VF. -/
def reg? (index : Nat) : Option Reg := if index < 16 then some (BitVec.ofNat 4 index) else none

/-- A row count fits the four bits of `n`. -/
def nibble? (value : Nat) : Option Nibble := if value < 16 then some (BitVec.ofNat 4 value) else none

/-- An immediate fits the eight bits of `kk`. -/
def byte? (value : Nat) : Option Byte := if value < 256 then some (BitVec.ofNat 8 value) else none

/-- An address fits the twelve bits of `nnn`. -/
def addr? (value : Nat) : Option Addr := if value < 4096 then some (BitVec.ofNat 12 value) else none

/-- The instruction a line writes, if it is one: the mnemonic and the operands' kinds choose the row of R119. -/
def assemble (line : AsmLine) : Option Instr :=
  match line.mnemonic, line.operands with
  | .cls, [] => some .cls
  | .ret, [] => some .ret
  | .jp, [.num nnn] => (addr? nnn).map .jp
  | .call, [.num nnn] => (addr? nnn).map .call
  | .se, [.v x, .num kk] => do return .seImm (← reg? x) (← byte? kk)
  | .sne, [.v x, .num kk] => do return .sneImm (← reg? x) (← byte? kk)
  | .se, [.v x, .v y] => do return .seReg (← reg? x) (← reg? y)
  | .sne, [.v x, .v y] => do return .sneReg (← reg? x) (← reg? y)
  | .ld, [.v x, .num kk] => do return .ldImm (← reg? x) (← byte? kk)
  | .add, [.v x, .num kk] => do return .addImm (← reg? x) (← byte? kk)
  | .ld, [.v x, .v y] => do return .ldReg (← reg? x) (← reg? y)
  | .or, [.v x, .v y] => do return .orReg (← reg? x) (← reg? y)
  | .and, [.v x, .v y] => do return .andReg (← reg? x) (← reg? y)
  | .xor, [.v x, .v y] => do return .xorReg (← reg? x) (← reg? y)
  | .add, [.v x, .v y] => do return .addReg (← reg? x) (← reg? y)
  | .sub, [.v x, .v y] => do return .sub (← reg? x) (← reg? y)
  | .shr, [.v x, .v y] => do return .shr (← reg? x) (← reg? y)
  | .subn, [.v x, .v y] => do return .subn (← reg? x) (← reg? y)
  | .shl, [.v x, .v y] => do return .shl (← reg? x) (← reg? y)
  | .ld, [.i, .num nnn] => (addr? nnn).map .ldI
  | .rnd, [.v x, .num kk] => do return .rnd (← reg? x) (← byte? kk)
  | .drw, [.v x, .v y, .num n] => do return .drw (← reg? x) (← reg? y) (← nibble? n)
  | .sknp, [.v x] => (reg? x).map .sknp
  | .ld, [.v x, .dt] => (reg? x).map .ldVxDt
  | .ld, [.dt, .v x] => (reg? x).map .ldDtVx
  | .ld, [.st, .v x] => (reg? x).map .ldStVx
  | .add, [.i, .v x] => (reg? x).map .addI
  | .ld, [.f, .v x] => (reg? x).map .ldF
  | .ld, [.b, .v x] => (reg? x).map .ldB
  | .ld, [.atI, .v x] => (reg? x).map .ldMemVx
  | .ld, [.v x, .atI] => (reg? x).map .ldVxMem
  | _, _ => none

/-- A line is well-formed when it writes an instruction. -/
def AsmLine.wellFormed (line : AsmLine) : Bool := (assemble line).isSome

/-- How an instruction is written (the mnemonic column of R119, operands in the order of R125). -/
def Instr.toLine : Instr → AsmLine
  | .cls => ⟨.cls, []⟩
  | .ret => ⟨.ret, []⟩
  | .jp nnn => ⟨.jp, [.num nnn.toNat]⟩
  | .call nnn => ⟨.call, [.num nnn.toNat]⟩
  | .seImm x kk => ⟨.se, [.v x.toNat, .num kk.toNat]⟩
  | .sneImm x kk => ⟨.sne, [.v x.toNat, .num kk.toNat]⟩
  | .seReg x y => ⟨.se, [.v x.toNat, .v y.toNat]⟩
  | .ldImm x kk => ⟨.ld, [.v x.toNat, .num kk.toNat]⟩
  | .addImm x kk => ⟨.add, [.v x.toNat, .num kk.toNat]⟩
  | .ldReg x y => ⟨.ld, [.v x.toNat, .v y.toNat]⟩
  | .orReg x y => ⟨.or, [.v x.toNat, .v y.toNat]⟩
  | .andReg x y => ⟨.and, [.v x.toNat, .v y.toNat]⟩
  | .xorReg x y => ⟨.xor, [.v x.toNat, .v y.toNat]⟩
  | .addReg x y => ⟨.add, [.v x.toNat, .v y.toNat]⟩
  | .sub x y => ⟨.sub, [.v x.toNat, .v y.toNat]⟩
  | .shr x y => ⟨.shr, [.v x.toNat, .v y.toNat]⟩
  | .subn x y => ⟨.subn, [.v x.toNat, .v y.toNat]⟩
  | .shl x y => ⟨.shl, [.v x.toNat, .v y.toNat]⟩
  | .sneReg x y => ⟨.sne, [.v x.toNat, .v y.toNat]⟩
  | .ldI nnn => ⟨.ld, [.i, .num nnn.toNat]⟩
  | .rnd x kk => ⟨.rnd, [.v x.toNat, .num kk.toNat]⟩
  | .drw x y n => ⟨.drw, [.v x.toNat, .v y.toNat, .num n.toNat]⟩
  | .sknp x => ⟨.sknp, [.v x.toNat]⟩
  | .ldVxDt x => ⟨.ld, [.v x.toNat, .dt]⟩
  | .ldDtVx x => ⟨.ld, [.dt, .v x.toNat]⟩
  | .ldStVx x => ⟨.ld, [.st, .v x.toNat]⟩
  | .addI x => ⟨.add, [.i, .v x.toNat]⟩
  | .ldF x => ⟨.ld, [.f, .v x.toNat]⟩
  | .ldB x => ⟨.ld, [.b, .v x.toNat]⟩
  | .ldMemVx x => ⟨.ld, [.atI, .v x.toNat]⟩
  | .ldVxMem x => ⟨.ld, [.v x.toNat, .atI]⟩

end Sys2Proof
end

