-- ==== Sys2Proof/Certificates/Slice0/Obligations.lean ====
section
/-! DEFINITION. The statements for the provers. Each docstring names the rules a statement formalises, and the log entry or
the spec's decision where one of its clauses rests on a choice and not on a rule. -/

open Sys2Proof Sys2Proof.Machine

/-! ### Encoding (spec/30_encoding.md) -/

/-- R112, R115: encoding an instruction and decoding the word gives the instruction back, with every operand at every
value its field admits, the ignored y of 8xy6 and 8xyE among them. -/
def Obligations.DecodeOfEncode : Prop := ∀ i : Instr, decode (encode i) = .ok i

/-- R112, R115, R121: a word that decodes is the word of its instruction, so a word has one meaning and none of its bits is
dropped. This is strict matching, the spec's decision D10 (log entry 17): a decoder that ran 0x0120 as 00E0 would fail it. -/
def Obligations.EncodeOfDecode : Prop := ∀ (w : Word) (i : Instr), decode w = .ok i → encode i = w

/-- R120, R121: a decoded word matches its instruction's row of the opcode table under the row's mask, and a word is a
decode error exactly when it matches no row. Strict matching is the spec's decision D10, and what is not listed D11 (log
entry 17). -/
def Obligations.DecodeFollowsOpcodeTable : Prop :=
  ∀ w : Word, (∀ i, decode w = .ok i → i.row ∈ opcodeRows ∧ i.row.holds w = true) ∧
    ((∃ e, decode w = .error e) ↔ ∀ row ∈ opcodeRows, row.holds w = false)

/-- R120: no word matches two of the 31 rows. -/
def Obligations.OpcodeRowsAreDisjoint : Prop :=
  opcodeRows.length = 31 ∧ opcodeRows.Pairwise (fun p q => ∀ w : Word, ¬(p.holds w = true ∧ q.holds w = true))

/-- Words written out from the layouts of R112, one for each family that has an instruction (R18: a family is the instructions of
one top nibble) and each format, and words R121 and R124 make decode errors (the spec's decisions D10 and D11, log entry
17). -/
def Obligations.SampleWordsDecode : Prop :=
  decode 0b0000000011100000 = .ok .cls ∧ decode 0b0001001011110000 = .ok (.jp 0x2F0) ∧
  decode 0b0010001100000100 = .ok (.call 0x304) ∧ decode 0b0011001000010000 = .ok (.seImm 2 0x10) ∧
  decode 0b0100001101000010 = .ok (.sneImm 3 0x42) ∧ decode 0b0101000100100000 = .ok (.seReg 1 2) ∧
  decode 0b0110101001011100 = .ok (.ldImm 0xA 0x5C) ∧ decode 0b0111001100000101 = .ok (.addImm 3 0x05) ∧
  decode 0b1000000100100100 = .ok (.addReg 1 2) ∧ decode 0b1001000100100000 = .ok (.sneReg 1 2) ∧
  decode 0b1010001100000000 = .ok (.ldI 0x300) ∧ decode 0b1100001100001111 = .ok (.rnd 3 0x0F) ∧
  decode 0b1101000000010101 = .ok (.drw 0 1 5) ∧
  decode 0b1110000110100001 = .ok (.sknp 1) ∧ decode 0b1111010100110011 = .ok (.ldB 5) ∧
  decode 0x0120 = .error (.unlisted 0x0120) ∧ decode 0xB123 = .error (.unlisted 0xB123) ∧
  decode 0xE19E = .error (.unlisted 0xE19E) ∧ decode 0xF10A = .error (.unlisted 0xF10A)

/-- R119, R125: the line that writes an instruction assembles to it, so operand kinds tell the rows of a shared mnemonic
apart. The written form is from general knowledge (the spec's decision D26, log entry 23). -/
def Obligations.WrittenLineAssembles : Prop := ∀ i : Instr, assemble i.toLine = some i ∧ i.toLine.wellFormed = true

/-- R80, R84: a fetch reads the bytes at PC mod 4096 and (PC + 1) mod 4096, the first one high. Big-endian order and the
reduction are the spec's decisions D3, D4 and D5 (log entries 12, 13 and 14). -/
def Obligations.FetchIsBigEndianAndWraps : Prop :=
  ∀ s : State, s.fetchWord.toNat =
    (s.readByte (s.pc.toNat % 4096)).toNat * 256 + (s.readByte ((s.pc.toNat + 1) % 4096)).toNat

/-! ### Control flow (spec/40_control_flow.md) -/

/-- R152: a jump sets PC to nnn, zero-extended, and changes nothing else. -/
def Obligations.JumpSetsPc : Prop :=
  ∀ (nnn : Addr) (s : State), ∃ t, exec (.jp nnn) s = .next t ∧
    t.pc.toNat = nnn.toNat ∧ OnlyPc s t ∧ MemSame s t

/-- R153 with SP < 16: PC + 2 goes to STACK[SP], SP is incremented, PC becomes nnn; no other entry and nothing else
changes. The meaning of SP is the spec's decision D8, the 16-bit wrap of PC + 2 D5 (log entries 14 and 15). -/
def Obligations.CallPushesReturnAddress : Prop :=
  ∀ (nnn : Addr) (s : State) (room : s.sp.val < 16), ∃ t, exec (.call nnn) s = .next t ∧
    t.stack[s.sp.val] = s.pc + 2 ∧ t.sp.val = s.sp.val + 1 ∧ t.pc.toNat = nnn.toNat ∧
    (∀ (k : Nat) (h : k < 16), k ≠ s.sp.val → t.stack[k] = s.stack[k]) ∧ OnlyStack s t ∧ MemSame s t

/-- R151 with SP > 0: SP is decremented and PC becomes the whole entry there, which stays in the stack. The meaning of SP
is the spec's decision D8 (log entry 15). -/
def Obligations.ReturnPopsIntoPc : Prop :=
  ∀ (s : State) (live : 0 < s.sp.val), ∃ t, exec .ret s = .next t ∧ t.sp.val + 1 = s.sp.val ∧
    t.pc = s.stack[s.sp.val - 1]'(by have := s.sp.isLt; omega) ∧ t.stack = s.stack ∧ OnlyStack s t ∧ MemSame s t

/-- R305, the default policy: at the bound 2nnn and 00EE set FAULT and change nothing else, so PC keeps the instruction's
address. The fault is the spec's decision D9, and its register D22 (log entries 2 and 16). -/
def Obligations.StackBoundsRaiseFault : Prop :=
  ∀ s : State, s.params.stackPolicy = .fault →
    (∀ nnn : Addr, s.sp.val = 16 → exec (.call nnn) s = .next { s with fault := .stackOverflow }) ∧
    (s.sp.val = 0 → exec .ret s = .next { s with fault := .stackUnderflow })

/-- R307, the two other policies (the spec's decision D9, log entry 2). Wrap: a push at 16 overwrites STACK[0] and leaves one
live entry, a pop at 0 reads STACK[15] and leaves fifteen. Clamp: a push at 16 overwrites STACK[15] and a pop at 0 reads
STACK[0], with SP kept. Neither sets FAULT. -/
def Obligations.StackPoliciesWrapAndClamp : Prop :=
  ∀ s : State,
    (s.params.stackPolicy = .wrap →
      (∀ nnn : Addr, s.sp.val = 16 → ∃ t, exec (.call nnn) s = .next t ∧ t.stack[0] = s.pc + 2 ∧ t.sp.val = 1 ∧
        t.pc.toNat = nnn.toNat ∧ (∀ (k : Nat) (h : k < 16), k ≠ 0 → t.stack[k] = s.stack[k]) ∧ OnlyStack s t) ∧
      (s.sp.val = 0 → ∃ t, exec .ret s = .next t ∧ t.pc = s.stack[15] ∧ t.sp.val = 15 ∧ t.stack = s.stack ∧ OnlyStack s t)) ∧
    (s.params.stackPolicy = .clamp →
      (∀ nnn : Addr, s.sp.val = 16 → ∃ t, exec (.call nnn) s = .next t ∧ t.stack[15] = s.pc + 2 ∧ t.sp = s.sp ∧
        t.pc.toNat = nnn.toNat ∧ (∀ (k : Nat) (h : k < 16), k ≠ 15 → t.stack[k] = s.stack[k]) ∧ OnlyStack s t) ∧
      (s.sp.val = 0 → ∃ t, exec .ret s = .next t ∧ t.pc = s.stack[0] ∧ t.sp = s.sp ∧ t.stack = s.stack ∧ OnlyStack s t))

/-- R155 to R158: the four skips compare and change nothing but PC, which moves by 4 when the condition holds and by 2 when
it does not. The distance is the spec's own derivation (R131), the wrap its decision D5 (log entry 14). -/
def Obligations.SkipsCompareAndMovePc : Prop :=
  ∀ (x y : Reg) (kk : Byte) (s : State),
    exec (.seImm x kk) s = .next { s with pc := if s.reg x = kk then s.pc + 4 else s.pc + 2 } ∧
    exec (.sneImm x kk) s = .next { s with pc := if s.reg x ≠ kk then s.pc + 4 else s.pc + 2 } ∧
    exec (.seReg x y) s = .next { s with pc := if s.reg x = s.reg y then s.pc + 4 else s.pc + 2 } ∧
    exec (.sneReg x y) s = .next { s with pc := if s.reg x ≠ s.reg y then s.pc + 4 else s.pc + 2 }

/-- R275: ExA1 skips exactly when the key numbered V[x] mod 16 is up, and changes nothing but PC. The reduction is the
spec's decision D16 (log entry 19). -/
def Obligations.SkipIfKeyUp : Prop :=
  ∀ (x : Reg) (s : State), exec (.sknp x) s =
    .next { s with pc := if s.key.getLsbD ((s.reg x).toNat % 16) = false then s.pc + 4 else s.pc + 2 }

/-! ### Registers (spec/41_alu.md) -/

/-- R185, R190: V[x] becomes kk, or V[y]; no other register and nothing else but PC changes. -/
def Obligations.RegisterIsLoaded : Prop :=
  ∀ (x y : Reg) (kk : Byte) (s : State),
    (∃ t, exec (.ldImm x kk) s = .next t ∧ t.reg x = kk ∧ RegsSameBut [x] s t ∧ OnlyRegs s t ∧ MemSame s t) ∧
    (∃ t, exec (.ldReg x y) s = .next t ∧ t.reg x = s.reg y ∧ RegsSameBut [x] s t ∧ OnlyRegs s t ∧ MemSame s t)

/-- R186: V[x] becomes (V[x] + kk) mod 256 and no flag is written, whatever the sum. -/
def Obligations.AddImmediateHasNoFlag : Prop :=
  ∀ (x : Reg) (kk : Byte) (s : State), ∃ t, exec (.addImm x kk) s = .next t ∧
    (t.reg x).toNat = ((s.reg x).toNat + kk.toNat) % 256 ∧ RegsSameBut [x] s t ∧ OnlyRegs s t ∧ MemSame s t

/-- R191, R192, R193: V[x] becomes the bitwise OR, AND or XOR of V[x] and V[y]; VF is not reset. -/
def Obligations.LogicIsBitwise : Prop :=
  ∀ (x y : Reg) (s : State),
    (∃ t, exec (.orReg x y) s = .next t ∧
      (∀ k < 8, (t.reg x).getLsbD k = ((s.reg x).getLsbD k || (s.reg y).getLsbD k)) ∧
      RegsSameBut [x] s t ∧ OnlyRegs s t ∧ MemSame s t) ∧
    (∃ t, exec (.andReg x y) s = .next t ∧
      (∀ k < 8, (t.reg x).getLsbD k = ((s.reg x).getLsbD k && (s.reg y).getLsbD k)) ∧
      RegsSameBut [x] s t ∧ OnlyRegs s t ∧ MemSame s t) ∧
    (∃ t, exec (.xorReg x y) s = .next t ∧
      (∀ k < 8, (t.reg x).getLsbD k = ((s.reg x).getLsbD k ^^ (s.reg y).getLsbD k)) ∧
      RegsSameBut [x] s t ∧ OnlyRegs s t ∧ MemSame s t)

/-- R194: V[x] becomes the sum mod 256 and VF the carry. That VF ends as the flag when x = 15 is the spec's decision D12
(log entry 18). -/
def Obligations.AddRegisterSetsCarry : Prop :=
  ∀ (x y : Reg) (s : State), ∃ t, exec (.addReg x y) s = .next t ∧
    (x ≠ VF → (t.reg x).toNat = ((s.reg x).toNat + (s.reg y).toNat) % 256) ∧
    (t.reg VF).toNat = (if (s.reg x).toNat + (s.reg y).toNat > 255 then 1 else 0) ∧
    RegsSameBut [x, VF] s t ∧ OnlyRegs s t ∧ MemSame s t

/-- R195, R197: V[x] becomes V[x] - V[y] (8xy5) or V[y] - V[x] (8xy7) mod 256, and VF is 1 exactly when the minuend is
strictly greater. That VF ends as the flag when x = 15 is the spec's decision D12 (log entry 18). -/
def Obligations.SubtractSetsNoBorrow : Prop :=
  ∀ (x y : Reg) (s : State),
    (∃ t, exec (.sub x y) s = .next t ∧
      (x ≠ VF → (t.reg x).toNat = ((s.reg x).toNat + 256 - (s.reg y).toNat) % 256) ∧
      (t.reg VF).toNat = (if (s.reg x).toNat > (s.reg y).toNat then 1 else 0) ∧
      RegsSameBut [x, VF] s t ∧ OnlyRegs s t ∧ MemSame s t) ∧
    (∃ t, exec (.subn x y) s = .next t ∧
      (x ≠ VF → (t.reg x).toNat = ((s.reg y).toNat + 256 - (s.reg x).toNat) % 256) ∧
      (t.reg VF).toNat = (if (s.reg y).toNat > (s.reg x).toNat then 1 else 0) ∧
      RegsSameBut [x, VF] s t ∧ OnlyRegs s t ∧ MemSame s t)

/-- R196, R198: V[x] is shifted by one, logically, and VF takes the bit shifted out of the old V[x]; V[y] has no effect
(R114). That VF ends as the flag when x = 15 is the spec's decision D12 (log entry 18). -/
def Obligations.ShiftsMoveVxByOne : Prop :=
  ∀ (x y : Reg) (s : State),
    (∃ t, exec (.shr x y) s = .next t ∧ (x ≠ VF → (t.reg x).toNat = (s.reg x).toNat / 2) ∧
      (t.reg VF).toNat = (s.reg x).toNat % 2 ∧ RegsSameBut [x, VF] s t ∧ OnlyRegs s t ∧ MemSame s t) ∧
    (∃ t, exec (.shl x y) s = .next t ∧ (x ≠ VF → (t.reg x).toNat = (s.reg x).toNat * 2 % 256) ∧
      (t.reg VF).toNat = (s.reg x).toNat / 128 ∧ RegsSameBut [x, VF] s t ∧ OnlyRegs s t ∧ MemSame s t)

/-- R200, R63: V[x] becomes the drawn byte AND kk, and exactly one draw is taken. The byte is a free value (log entry 4):
nothing is said of it. -/
def Obligations.RandomIsMaskedDraw : Prop :=
  ∀ (x : Reg) (kk : Byte) (s : State), ∃ t, exec (.rnd x kk) s = .next t ∧
    t.reg x = Config.rnd s.draws &&& kk ∧ t.draws = s.draws + 1 ∧ RegsSameBut [x] s t ∧
    t = { s with v := t.v, pc := t.pc, draws := t.draws } ∧ MemSame s t

/-! ### Index and memory (spec/42_index_memory.md) -/

/-- R221, R232: I becomes nnn, zero-extended, or the whole V[x] times 5; nothing else but PC changes. -/
def Obligations.IndexIsLoaded : Prop :=
  ∀ s : State,
    (∀ nnn : Addr, ∃ t, exec (.ldI nnn) s = .next t ∧ t.i.toNat = nnn.toNat ∧ OnlyIndex s t ∧ MemSame s t) ∧
    (∀ x : Reg, ∃ t, exec (.ldF x) s = .next t ∧ t.i.toNat = (s.reg x).toNat * 5 ∧ OnlyIndex s t ∧ MemSame s t)

/-- R231: I becomes (I + V[x]) mod 2^16 and VF is not written. The wrap is the spec's decision D7 (log entry 14). -/
def Obligations.AddToIndexWraps : Prop :=
  ∀ (x : Reg) (s : State), ∃ t, exec (.addI x) s = .next t ∧
    t.i.toNat = (s.i.toNat + (s.reg x).toNat) % 65536 ∧ OnlyIndex s t ∧ MemSame s t

/-- R233: hundreds, tens and ones of V[x] at I, I + 1 and I + 2, each address reduced modulo 4096; every other byte, I
and all else but PC is unchanged. The reduction is the spec's decision D4 (log entry 13). -/
def Obligations.BcdDigitsAreStored : Prop :=
  ∀ (x : Reg) (s : State), s.memWf → ∃ t, exec (.ldB x) s = .next t ∧
    (t.readByte (s.indexed 0)).toNat = (s.reg x).toNat / 100 ∧
    (t.readByte (s.indexed 1)).toNat = (s.reg x).toNat / 10 % 10 ∧
    (t.readByte (s.indexed 2)).toNat = (s.reg x).toNat % 10 ∧
    (∀ a, (∀ k < 3, a % 4096 ≠ s.indexed k % 4096) → t.readByte a = s.readByte a) ∧ OnlyMemory s t

/-- R234: V[0] to V[x] go to I to I + x, each address reduced modulo 4096; every other byte, I and all else but PC is
unchanged. The reduction and I unchanged are the spec's decisions D4 and D17 (log entries 13 and 20). -/
def Obligations.RegistersAreDumped : Prop :=
  ∀ (x : Reg) (s : State), s.memWf → ∃ t, exec (.ldMemVx x) s = .next t ∧
    (∀ k : Reg, k ≤ x → t.readByte (s.indexed k.toNat) = s.reg k) ∧
    (∀ a, (∀ k : Reg, k ≤ x → a % 4096 ≠ s.indexed k.toNat % 4096) → t.readByte a = s.readByte a) ∧ OnlyMemory s t

/-- R235: V[0] to V[x] are loaded from I to I + x, each address reduced modulo 4096, VF as data when x = 15; the registers
above x, I, memory and all else but PC are unchanged. The reduction and I unchanged are the spec's decisions D4 and D17
(log entries 13 and 20). -/
def Obligations.RegistersAreLoaded : Prop :=
  ∀ (x : Reg) (s : State), ∃ t, exec (.ldVxMem x) s = .next t ∧
    (∀ k : Reg, k ≤ x → t.reg k = s.readByte (s.indexed k.toNat)) ∧
    (∀ k : Reg, x < k → t.reg k = s.reg k) ∧ OnlyRegs s t ∧ MemSame s t

/-- R236: an Fx55 and a later Fx65 with the same x and I, with the bytes at I to I + x kept between them, give V[0] to V[x]
back the values they had. -/
def Obligations.DumpLoadRoundTrip : Prop :=
  ∀ (x : Reg) (s s1 t : State), s.memWf → exec (.ldMemVx x) s = .next s1 → t.i = s.i →
    (∀ k : Reg, k ≤ x → t.readByte (s.indexed k.toNat) = s1.readByte (s.indexed k.toNat)) →
    ∃ u, exec (.ldVxMem x) t = .next u ∧ ∀ k : Reg, k ≤ x → u.reg k = s.reg k

/-- R97: a fetch sees the bytes stored before it, wherever they were stored, the one at PC as its high byte. That it sees them
is the spec's decision D27, the reduction D4 (log entry 13), the byte order D3 (log entry 12). -/
def Obligations.FetchSeesStoredBytes : Prop :=
  ∀ (s : State) (high low : Byte), s.memWf →
    ((s.writeByte s.pc.toNat high).writeByte (s.pc.toNat + 1) low).fetchWord = cat high low

/-! ### Display (spec/43_display.md) -/

/-- R251: every pixel is 0 afterwards; VF and all else but PC is unchanged. -/
def Obligations.ClearScreenBlanksEveryPixel : Prop :=
  ∀ s : State, ∃ t, exec .cls s = .next t ∧ (∀ px py, Framebuffer.pixel t.fb px py = false) ∧
    RegsSameBut [] s t ∧ t = { s with fb := t.fb, pc := t.pc } ∧ MemSame s t

/-- R253 to R258: a pixel flips exactly when it lies under a set bit of the sprite, each pixel wrapping on its own, and VF
is 1 exactly when some pixel that was 1 lies under one, and otherwise 0; the other registers, I, memory and all else but PC
are unchanged. The bit order is the spec's decision D13 from general knowledge (log entry 11), the reading of the coordinates
before VF is written D12 (log entry 18). -/
def Obligations.DrawFlipsSpritePixels : Prop :=
  ∀ (x y : Reg) (n : Nibble) (s : State), ∃ t, exec (.drw x y n) s = .next t ∧
    (∀ px py, px < 64 → py < 32 →
      (SpriteSets s (s.reg x).toNat (s.reg y).toNat n.toNat px py →
        Framebuffer.pixel t.fb px py = !Framebuffer.pixel s.fb px py) ∧
      (¬SpriteSets s (s.reg x).toNat (s.reg y).toNat n.toNat px py →
        Framebuffer.pixel t.fb px py = Framebuffer.pixel s.fb px py)) ∧
    (t.reg VF = 1 ↔ ∃ px py, px < 64 ∧ py < 32 ∧ Framebuffer.pixel s.fb px py = true ∧
      SpriteSets s (s.reg x).toNat (s.reg y).toNat n.toNat px py) ∧
    (t.reg VF = 1 ∨ t.reg VF = 0) ∧
    RegsSameBut [VF] s t ∧ t = { s with fb := t.fb, v := t.v, pc := t.pc } ∧ MemSame s t

/-- R259: a second draw of the same sprite bytes at the same coordinates restores the picture, and its VF is 1 exactly when
some pixel under a set sprite bit was 1 after the first draw (spec/90_conflicts.md C5). Which pixels those are rests on the
sprite's bit order, the spec's decision D13 from general knowledge (log entry 11). -/
def Obligations.SpriteIsSelfInverse : Prop :=
  ∀ (x y : Reg) (n : Nibble) (s s1 t u : State), exec (.drw x y n) s = .next s1 → exec (.drw x y n) t = .next u →
    t.fb = s1.fb → t.i = s.i → (∀ r < n.toNat, t.readByte (t.indexed r) = s.readByte (s.indexed r)) →
    t.reg x = s.reg x → t.reg y = s.reg y →
    u.fb = s.fb ∧
    (u.reg VF = 1 ↔ ∃ px py, px < 64 ∧ py < 32 ∧ Framebuffer.pixel s1.fb px py = true ∧
      SpriteSets s (s.reg x).toNat (s.reg y).toNat n.toNat px py)

/-! ### Keys and timers (spec/44_keys_timers.md) -/

/-- R276: V[x] becomes DT. -/
def Obligations.ReadDelayTimer : Prop :=
  ∀ (x : Reg) (s : State), ∃ t, exec (.ldVxDt x) s = .next t ∧
    t.reg x = s.dt ∧ RegsSameBut [x] s t ∧ OnlyRegs s t ∧ MemSame s t

/-- R277, R278: DT or ST becomes V[x], and after Fx18 the tone sounds exactly when V[x] ≠ 0. -/
def Obligations.WriteTimers : Prop :=
  ∀ (x : Reg) (s : State),
    (∃ t, exec (.ldDtVx x) s = .next t ∧ t.dt = s.reg x ∧ t = { s with dt := t.dt, pc := t.pc } ∧ MemSame s t) ∧
    (∃ t, exec (.ldStVx x) s = .next t ∧ t.st = s.reg x ∧ (t.tone = true ↔ s.reg x ≠ 0) ∧
      t = { s with st := t.st, pc := t.pc } ∧ MemSame s t)

/-- R280: a tick takes 1 from each timer that is not 0, whatever FAULT holds, and touches nothing else of the engine. That a
tick is one step of its own is the spec's decision D19. What of the schedule and the outputs changes is the model's own (log
entries 3 and 6), and ticks in a faulted engine are D22 (log entry 16). -/
def Obligations.TickCountsDown : Prop :=
  ∀ s : State, s.nextAgent = .tick → s.life = .running → ∃ t, step s = .next t ∧
    t.dt.toNat = s.dt.toNat - 1 ∧ t.st.toNat = s.st.toNat - 1 ∧ t = { s.begin with dt := t.dt, st := t.st }

/-- R282: after n ticks DT is max(DT - n, 0), whatever steps come between them, as long as no Fx15 runs and no new session is
booted, and ST obeys the same law with Fx18; and n ticks in a row do occur in a running session whose schedule has them. That
ticks are steps of their own and go on in a faulted engine is the spec's decision D19, that a schedule lists them the model's
choice (log entries 3 and 16). -/
def Obligations.TimersAfterTicks : Prop :=
  (∀ (n : Nat) (s t : State), TickRun .ldDtVx n s t → t.dt.toNat = s.dt.toNat - n) ∧
  (∀ (n : Nat) (s t : State), TickRun .ldStVx n s t → t.st.toNat = s.st.toNat - n) ∧
  (∀ (n : Nat) (s : State) (rest : List AgentStep), s.life = .running →
    s.schedule = List.replicate n AgentStep.tick ++ rest →
    ∃ t, stepsFrom s n = .next t ∧ t.dt.toNat = s.dt.toNat - n ∧ t.st.toNat = s.st.toNat - n ∧
      t.schedule = rest ∧ t.pc = s.pc ∧ t.v = s.v)

/-! ### The instruction cycle (spec/30_encoding.md) -/

/-- R130: when the next step is a cycle that fetches, and the fetched word decodes, step runs that instruction on the state
with its schedule entry taken and the last step's events gone (State.begin; the model's own fields, log entries 3 and 6), and
then presents the picture. -/
def Obligations.StepRunsDecodedInstruction : Prop :=
  ∀ (s : State) (i : Instr), s.Ready → decode s.fetchWord = .ok i →
    step s = presenting (exec i s.begin) ∧
    ∀ t, exec i s.begin = .next t → step s = .next { t with frame := some t.fb }

/-- R301: a word that is no instruction gives one diag event with (PC, word), PC + 2 and the picture, and changes nothing
else. The event's content is the spec's decision D25, the wrap of PC D5, and what of the schedule and the outputs changes the
model's own (log entries 3, 6 and 14). -/
def Obligations.StepReportsDecodeError : Prop :=
  ∀ (s : State) (e : DecodeError), s.Ready → decode s.fetchWord = .error e →
    step s = .next { s.begin with
      pc := s.pc + 2, diag := some { pc := s.pc, word := s.fetchWord }, frame := some s.fb }

/-- R131: what PC becomes, for every instruction that completes without a stack fault. The skip distance is the spec's own
derivation, the wrap its decision D5 (log entry 14). -/
def Obligations.NextPcOfEveryInstruction : Prop :=
  ∀ (i : Instr) (s t : State), exec i s = .next t → t.fault = s.fault →
    match i with
    | .jp nnn => t.pc = addrWord nnn
    | .call nnn => s.sp.val < 16 → t.pc = addrWord nnn
    | .ret => ∀ live : 0 < s.sp.val, t.pc = s.stack[s.sp.val - 1]'(by have := s.sp.isLt; omega)
    | .seImm _ _ => t.pc = s.pc + 4 ∨ t.pc = s.pc + 2
    | .sneImm _ _ => t.pc = s.pc + 4 ∨ t.pc = s.pc + 2
    | .seReg _ _ => t.pc = s.pc + 4 ∨ t.pc = s.pc + 2
    | .sneReg _ _ => t.pc = s.pc + 4 ∨ t.pc = s.pc + 2
    | .sknp _ => t.pc = s.pc + 4 ∨ t.pc = s.pc + 2
    | _ => t.pc = s.pc + 2

/-! ### Whole-machine rules -/

/-- R309: no guest program makes the model itself stop: every step answers a next state, whatever memory holds. A stack fault,
the rule's exception, is such a state too, in which no instruction runs any more (FaultedEngineRunsNothing). That a step which
is not enabled still answers a next state is the model's choice (log entry 5). -/
def Obligations.StepAlwaysAnswersNext : Prop := ∀ s : State, ∃ t, step s = .next t

/-- R46: no instruction reads or writes LIFE or KILL: with other values in them it does the same, and leaves those values. -/
def Obligations.InstructionsIgnoreLifeAndKill : Prop :=
  ∀ (i : Instr) (s t : State) (l : Life) (k : Bool), exec i s = .next t →
    t.life = s.life ∧ t.kill = s.kill ∧
    exec i { s with life := l, kill := k } = .next { t with life := l, kill := k }

/-- R43: KEY is read-only to the engine, and only ExA1 reads it: every other instruction does the same under any keys. -/
def Obligations.OnlySknpReadsKeys : Prop :=
  ∀ (i : Instr) (s t : State) (keys : BitVec 16), exec i s = .next t →
    t.key = s.key ∧ ((∀ x, i ≠ .sknp x) → exec i { s with key := keys } = .next { t with key := keys })

/-- R34, R38, R39, R40, R42, R43, R46, R47, R49, R51, R63, R86: which instructions write each element: a general register by those
that name it as their destination, VF also as the flag; I by Annn, Fx1E and Fx29; SP and STACK by 2nnn and 00EE, and FAULT by
them too, leaving PC; DT by Fx15; ST by Fx18; MEM by Fx33 and Fx55; FB by 00E0 and Dxyn; KEY, LIFE and KILL by none; and only
Cxkk takes a draw. PC is written by every instruction that does not set FAULT (NextPcOfEveryInstruction says with what). That
Fx55 and Fx65 leave I alone is the spec's decision D17 (log entry 20), draws are D18 (log entry 4), FAULT is D22 (log entry
16), and the fields of the last clause are parameters or the model's own (log entries 1, 2, 3 and 6). -/
def Obligations.EachElementHasItsWriters : Prop :=
  ∀ (i : Instr) (s t : State), exec i s = .next t →
    (t.i ≠ s.i → (∃ nnn, i = .ldI nnn) ∨ (∃ x, i = .addI x) ∨ ∃ x, i = .ldF x) ∧
    (t.sp ≠ s.sp ∨ t.stack ≠ s.stack → (∃ nnn, i = .call nnn) ∨ i = .ret) ∧
    (t.dt ≠ s.dt → ∃ x, i = .ldDtVx x) ∧ (t.st ≠ s.st → ∃ x, i = .ldStVx x) ∧
    (t.mem ≠ s.mem → (∃ x, i = .ldB x) ∨ ∃ x, i = .ldMemVx x) ∧
    (t.fb ≠ s.fb → i = .cls ∨ ∃ x y n, i = .drw x y n) ∧ (t.draws ≠ s.draws → ∃ x kk, i = .rnd x kk) ∧
    (∀ r, t.reg r ≠ s.reg r → WritesReg i r) ∧
    (t.fault ≠ s.fault → ((∃ nnn, i = .call nnn) ∨ i = .ret) ∧ t.pc = s.pc) ∧
    t.key = s.key ∧ t.life = s.life ∧ t.kill = s.kill ∧
    (t.params, t.schedule, t.turn, t.loadError, t.diag, t.frame) =
      (s.params, s.schedule, s.turn, s.loadError, s.diag, s.frame)

/-- R305, R313: FAULT changes only in a 2nnn with SP = 16 or a 00EE with SP = 0, each to its own condition, and only under
the default policy (the spec's decisions D9 and D22, log entries 2 and 16). -/
def Obligations.OnlyStackBoundsSetFault : Prop :=
  ∀ (i : Instr) (s t : State), exec i s = .next t → t.fault ≠ s.fault →
    s.params.stackPolicy = .fault ∧
    (((∃ nnn, i = .call nnn) ∧ s.sp.val = 16 ∧ t.fault = .stackOverflow) ∨
      (i = .ret ∧ s.sp.val = 0 ∧ t.fault = .stackUnderflow))

/-- R180: none of 6xkk, 7xkk, 8xy0 to 8xyE and Cxkk reads or writes MEM, I, the stack, the timers, KEY or FB, or raises a
condition. Each changes only V[x] and, for 8xy4, 8xy5, 8xy6, 8xy7 and 8xyE, VF, beside PC and the model's count of draws (log
entry 4), and from two states with equal V and equal draws it leaves equal V. That the random input, the spec's decision D18, is
a count of draws, which the two states share and Cxkk advances, is the model's choice (log entry 4). -/
def Obligations.AluTouchesOnlyRegisters : Prop :=
  ∀ (x y : Reg) (kk : Byte),
    (∀ i ∈ [Instr.ldImm x kk, .addImm x kk, .ldReg x y, .orReg x y, .andReg x y, .xorReg x y, .rnd x kk],
      RegistersOnly [x] i) ∧
    (∀ i ∈ [Instr.addReg x y, .sub x y, .shr x y, .subn x y, .shl x y], RegistersOnly [x, VF] i)

/-- R154: a call runs, and later, with the entries above its level popped and never one below it, a return runs at that level:
it resumes at the address after the call with SP as it was, and the entries below the call's are unchanged. The default policy
is the spec's decision D9, the meaning of SP D8 (log entries 2, 15 and 21). -/
def Obligations.CallReturnsBehindItself : Prop :=
  ∀ (nnn : Addr) (s s1 t u : State), s.params.stackPolicy = .fault → s.sp.val < 16 →
    s.Ready → decode s.fetchWord = .ok (.call nnn) → step s = .next s1 →
    StepsAbove (s.sp.val + 1) s1 t → t.sp.val = s.sp.val + 1 →
    t.Ready → decode t.fetchWord = .ok .ret → step t = .next u →
    u.pc = s.pc + 2 ∧ u.sp = s.sp ∧ ∀ (k : Nat) (h : k < 16), k < s.sp.val → u.stack[k] = s.stack[k]

/-- Every step keeps the invariant: canonical memory, LIFE Stopped or Running, a kill pending only in a session, and a stack
fault only with SP at its bound and PC at the instruction that raised it (R61, R305, R355; log entries 2, 8 and 16). -/
def Obligations.StepKeepsInv : Prop := ∀ s t : State, s.Inv → step s = .next t → t.Inv

/-- R70: the reset state meets the invariant: its memory is canonical, LIFE is Stopped or Running, and what the invariant asks
where a kill is pending or a fault stands holds too. Which state reset is, the start of Running with an empty program, is the
model's choice (log entry 7); what its fields hold is ResetValues. -/
def Obligations.ResetHasInv : Prop := State.reset.Inv

/-- R8: no step changes FONT, STACK_BOUNDS_POLICY or CYCLE_SCHEDULE (log entries 1, 2 and 3). -/
def Obligations.ParametersNeverChange : Prop := ∀ s t : State, step s = .next t → t.params = s.params

/-! ### Session and agents (spec/10_state.md, spec/60_exceptions.md, spec/70_reset_and_hazards.md) -/

/-- R130, R355, R72: a cycle that finds KILL = 1 fetches nothing, clears KILL, stops the session and keeps every other element,
FAULT among them. What of the schedule and the outputs changes is the model's own (log entries 3 and 6). -/
def Obligations.CycleObservesKill : Prop :=
  ∀ s : State, s.nextAgent = .cycle → s.life = .running → s.kill = true →
    step s = .next { s.begin with life := .stopped, kill := false }

/-- R306: while FAULT is set and no kill is pending, a cycle runs nothing (the spec's decision D22, log entries 3, 5, 6 and 16). -/
def Obligations.FaultedEngineRunsNothing : Prop :=
  ∀ s : State, s.nextAgent = .cycle → s.Faulted → s.kill = false → step s = .next s.begin

/-- R61: in a stopped session a cycle, a tick and a key change are not enabled, and the model's step passes over them (log
entries 3, 5 and 6). -/
def Obligations.StoppedSessionStaysAsItIs : Prop :=
  ∀ s : State, s.life ≠ .running → s.nextAgent = .cycle ∨ s.nextAgent = .tick ∨ (∃ k, s.nextAgent = .keyChange k) →
    step s = .next s.begin

/-- R62: in a running session, faulted or not, a key change copies key_in into KEY and changes nothing else (the spec's decision
D30, log entries 3, 6 and 16). -/
def Obligations.KeyChangeCopiesKeys : Prop :=
  ∀ (s : State) (keys : BitVec 16), s.nextAgent = .keyChange keys → s.life = .running →
    step s = .next { s.begin with key := keys }

/-- R354, R357: a kill command sets KILL in a running session and does nothing else; it has no effect when Stopped; a second one
changes nothing more. The command's entry in the schedule and the events cleared with it are the model's own (log entries 3 and
6). -/
def Obligations.KillCommandOnlyRequests : Prop :=
  ∀ s : State, s.nextAgent = .killCmd →
    (s.life = .running → step s = .next { s.begin with kill := true }) ∧
    (s.life = .stopped → step s = .next s.begin) ∧ s.begin.killCmd.killCmd = s.begin.killCmd

/-- R351 to R353, R356, R359, R70: a boot command with at most 3584 bytes starts a session from any state: every element has its
value at the start of Running, with FONT at 0x000-0x04F, the program from 0x200 on and 0 elsewhere in memory. FAULT cleared is the
spec's decision D22, PC = 0x200 D20, an empty program D31 (log entries 7, 16 and 22). That a boot keeps the count of draws,
leaves the rest of the schedule and is counted as a step is the model's choice (log entries 4 and 3), as are the parameters it
keeps (log entries 1 to 3). -/
def Obligations.BootStartsProgram : Prop :=
  ∀ (s : State) (rom : List Byte), s.nextAgent = .bootCmd rom → rom.length ≤ 3584 → ∃ t, step s = .next t ∧
    (∀ r, t.reg r = 0) ∧ t.i = 0 ∧ t.pc = 0x200 ∧ t.sp = 0 ∧ (∀ (k : Nat) (h : k < 16), t.stack[k] = 0) ∧
    t.dt = 0 ∧ t.st = 0 ∧ t.tone = false ∧ (∀ px py, Framebuffer.pixel t.fb px py = false) ∧ t.key = 0 ∧ t.kill = false ∧
    t.fault = .none ∧ t.life = .running ∧ t.loadError = false ∧
    (∀ (a : Nat) (h : a < 80), t.readByte a = s.params.font[a]) ∧
    (∀ a, 80 ≤ a → a < 0x200 → t.readByte a = 0) ∧
    (∀ (k : Nat) (h : k < rom.length), t.readByte (0x200 + k) = rom[k]) ∧
    (∀ a, 0x200 + rom.length ≤ a → a < 4096 → t.readByte a = 0) ∧
    t.params = s.params ∧ t.schedule = s.schedule.tail ∧ t.turn = s.turn + 1 ∧ t.draws = s.draws

/-- R308, R351, R356: a boot command with more than 3584 bytes stops a running session, reports load_error and changes nothing
else. That the length is checked before Reset is the spec's decision D21 (log entry 22); what else of the schedule and the
outputs changes is the model's own (log entries 3 and 6). -/
def Obligations.BootRefusesLongProgram : Prop :=
  ∀ (s : State) (rom : List Byte), s.nextAgent = .bootCmd rom → 3584 < rom.length →
    (s.life = .running → step s = .next { s.begin with life := .stopped, kill := false, loadError := true }) ∧
    (s.life = .stopped → step s = .next { s.begin with loadError := true })

/-- R312: a tick, a key change and a kill command never move PC or touch a general register, I, the stack, memory or FB. That
they are no interrupts is the spec's decision D23 (log entry 27), what a tick and a key change do D19 and D30 (log entry 3). The boot command,
which starts a new session at 0x200, is BootStartsProgram's. -/
def Obligations.TicksKeysAndKillsRedirectNothing : Prop :=
  ∀ s t : State, s.nextAgent = .tick ∨ (∃ k, s.nextAgent = .keyChange k) ∨ s.nextAgent = .killCmd → step s = .next t →
    t.pc = s.pc ∧ t.v = s.v ∧ t.i = s.i ∧ t.sp = s.sp ∧ t.stack = s.stack ∧ t.fb = s.fb ∧ MemSame s t

/-- R375: a parked engine stays parked and changes nothing but DT, ST and KEY in a cycle, a tick or a key change, as long as no kill
is pending (the spec's decision D34, log entry 26). The outputs and the schedule are the model's own (log entries 3 and 6). -/
def Obligations.ParkedEngineStaysParked : Prop :=
  ∀ (s : State) (a : Addr), s.Parked a → s.kill = false →
    s.nextAgent = .cycle ∨ s.nextAgent = .tick ∨ (∃ k, s.nextAgent = .keyChange k) →
    ∃ t, step s = .next t ∧ t.Parked a ∧ t.kill = false ∧
      t = { s.begin with dt := t.dt, st := t.st, key := t.key, frame := t.frame }

/-- R70: every element at the start of Running with an empty program, as the reset state of the model holds it; memory reads as
FONT below 0x050 and 0 above. The empty program, the default parameters and the model's own fields are log entries 1 to 4, 6 and
7, and PC = 0x200 is the spec's decision D20. -/
def Obligations.ResetValues : Prop :=
  (∀ r, State.reset.reg r = 0) ∧ State.reset.i = 0 ∧ State.reset.pc = 0x200 ∧ State.reset.sp = 0 ∧
  (∀ (k : Nat) (h : k < 16), State.reset.stack[k] = 0) ∧ State.reset.dt = 0 ∧ State.reset.st = 0 ∧
  (∀ px py, Framebuffer.pixel State.reset.fb px py = false) ∧ State.reset.key = 0 ∧ State.reset.life = .running ∧
  State.reset.kill = false ∧ State.reset.fault = .none ∧ State.reset.tone = false ∧
  (∀ (a : Nat) (h : a < 80), State.reset.readByte a = State.reset.params.font[a]) ∧
  (∀ a, 80 ≤ a → a < 4096 → State.reset.readByte a = 0)

/-- R71, R44, R51: before its first boot the engine is Stopped, whatever its other elements hold, and every step but a boot command
leaves it as it is. That nothing else has a value is the spec's decision D32 (log entry 7); the schedule and the outputs are the
model's own, and passing over what is not enabled its choice (log entries 3, 5 and 6). -/
def Obligations.PowerOnWaitsForBoot : Prop :=
  ∀ u : State, (State.powerOn u).life = .stopped ∧ (State.powerOn u).isKilled = true ∧
    ((∀ rom, (State.powerOn u).nextAgent ≠ .bootCmd rom) → step (State.powerOn u) = .next (State.powerOn u).begin)

/-- R71, R352: no claim can depend on what the engine held before its first boot: two engines at power-on with the same parameters,
inputs to come and draws boot into one and the same state, and that state meets the invariant. Unspecified contents are the
spec's decision D32 (log entry 7); the parameters, the schedule, the turn and the draws are the model's fields (log entries 1 to 4). -/
def Obligations.FirstBootErasesPowerOnContents : Prop :=
  ∀ (u w : State) (rom : List Byte), w.params = u.params → w.schedule = u.schedule → w.turn = u.turn → w.draws = u.draws →
    u.nextAgent = .bootCmd rom → rom.length ≤ 3584 →
    ∃ t, step (State.powerOn u) = .next t ∧ step (State.powerOn w) = .next t ∧ t.Inv
end

