-- ==== Sys2Proof/Laws/State.lean ====
section
/-! SUPPORT. One lemma per field per update, so that no later proof unfolds a record update. -/

namespace Sys2Proof.Machine
section setReg
variable (s : State) (x : Reg) (b : Byte)
@[simp] theorem State.setReg_v : (s.setReg x b).v = s.v.set x.toNat b x.isLt := rfl
@[simp] theorem State.setReg_i : (s.setReg x b).i = s.i := rfl
@[simp] theorem State.setReg_pc : (s.setReg x b).pc = s.pc := rfl
@[simp] theorem State.setReg_sp : (s.setReg x b).sp = s.sp := rfl
@[simp] theorem State.setReg_stack : (s.setReg x b).stack = s.stack := rfl
@[simp] theorem State.setReg_dt : (s.setReg x b).dt = s.dt := rfl
@[simp] theorem State.setReg_st : (s.setReg x b).st = s.st := rfl
@[simp] theorem State.setReg_mem : (s.setReg x b).mem = s.mem := rfl
@[simp] theorem State.setReg_fb : (s.setReg x b).fb = s.fb := rfl
@[simp] theorem State.setReg_key : (s.setReg x b).key = s.key := rfl
@[simp] theorem State.setReg_life : (s.setReg x b).life = s.life := rfl
@[simp] theorem State.setReg_kill : (s.setReg x b).kill = s.kill := rfl
@[simp] theorem State.setReg_fault : (s.setReg x b).fault = s.fault := rfl
@[simp] theorem State.setReg_params : (s.setReg x b).params = s.params := rfl
@[simp] theorem State.setReg_schedule : (s.setReg x b).schedule = s.schedule := rfl
@[simp] theorem State.setReg_turn : (s.setReg x b).turn = s.turn := rfl
@[simp] theorem State.setReg_draws : (s.setReg x b).draws = s.draws := rfl
@[simp] theorem State.setReg_loadError : (s.setReg x b).loadError = s.loadError := rfl
@[simp] theorem State.setReg_diag : (s.setReg x b).diag = s.diag := rfl
@[simp] theorem State.setReg_frame : (s.setReg x b).frame = s.frame := rfl

end setReg

section setI
variable (s : State) (w : Word)
@[simp] theorem State.setI_v : (s.setI w).v = s.v := rfl
@[simp] theorem State.setI_i : (s.setI w).i = w := rfl
@[simp] theorem State.setI_pc : (s.setI w).pc = s.pc := rfl
@[simp] theorem State.setI_sp : (s.setI w).sp = s.sp := rfl
@[simp] theorem State.setI_stack : (s.setI w).stack = s.stack := rfl
@[simp] theorem State.setI_dt : (s.setI w).dt = s.dt := rfl
@[simp] theorem State.setI_st : (s.setI w).st = s.st := rfl
@[simp] theorem State.setI_mem : (s.setI w).mem = s.mem := rfl
@[simp] theorem State.setI_fb : (s.setI w).fb = s.fb := rfl
@[simp] theorem State.setI_key : (s.setI w).key = s.key := rfl
@[simp] theorem State.setI_life : (s.setI w).life = s.life := rfl
@[simp] theorem State.setI_kill : (s.setI w).kill = s.kill := rfl
@[simp] theorem State.setI_fault : (s.setI w).fault = s.fault := rfl
@[simp] theorem State.setI_params : (s.setI w).params = s.params := rfl
@[simp] theorem State.setI_schedule : (s.setI w).schedule = s.schedule := rfl
@[simp] theorem State.setI_turn : (s.setI w).turn = s.turn := rfl
@[simp] theorem State.setI_draws : (s.setI w).draws = s.draws := rfl
@[simp] theorem State.setI_loadError : (s.setI w).loadError = s.loadError := rfl
@[simp] theorem State.setI_diag : (s.setI w).diag = s.diag := rfl
@[simp] theorem State.setI_frame : (s.setI w).frame = s.frame := rfl

end setI

section setPc
variable (s : State) (w : Word)
@[simp] theorem State.setPc_v : (s.setPc w).v = s.v := rfl
@[simp] theorem State.setPc_i : (s.setPc w).i = s.i := rfl
@[simp] theorem State.setPc_pc : (s.setPc w).pc = w := rfl
@[simp] theorem State.setPc_sp : (s.setPc w).sp = s.sp := rfl
@[simp] theorem State.setPc_stack : (s.setPc w).stack = s.stack := rfl
@[simp] theorem State.setPc_dt : (s.setPc w).dt = s.dt := rfl
@[simp] theorem State.setPc_st : (s.setPc w).st = s.st := rfl
@[simp] theorem State.setPc_mem : (s.setPc w).mem = s.mem := rfl
@[simp] theorem State.setPc_fb : (s.setPc w).fb = s.fb := rfl
@[simp] theorem State.setPc_key : (s.setPc w).key = s.key := rfl
@[simp] theorem State.setPc_life : (s.setPc w).life = s.life := rfl
@[simp] theorem State.setPc_kill : (s.setPc w).kill = s.kill := rfl
@[simp] theorem State.setPc_fault : (s.setPc w).fault = s.fault := rfl
@[simp] theorem State.setPc_params : (s.setPc w).params = s.params := rfl
@[simp] theorem State.setPc_schedule : (s.setPc w).schedule = s.schedule := rfl
@[simp] theorem State.setPc_turn : (s.setPc w).turn = s.turn := rfl
@[simp] theorem State.setPc_draws : (s.setPc w).draws = s.draws := rfl
@[simp] theorem State.setPc_loadError : (s.setPc w).loadError = s.loadError := rfl
@[simp] theorem State.setPc_diag : (s.setPc w).diag = s.diag := rfl
@[simp] theorem State.setPc_frame : (s.setPc w).frame = s.frame := rfl

end setPc

section advance
variable (s : State)
@[simp] theorem State.advance_v : (s.advance).v = s.v := rfl
@[simp] theorem State.advance_i : (s.advance).i = s.i := rfl
@[simp] theorem State.advance_pc : (s.advance).pc = s.pc + 2 := rfl
@[simp] theorem State.advance_sp : (s.advance).sp = s.sp := rfl
@[simp] theorem State.advance_stack : (s.advance).stack = s.stack := rfl
@[simp] theorem State.advance_dt : (s.advance).dt = s.dt := rfl
@[simp] theorem State.advance_st : (s.advance).st = s.st := rfl
@[simp] theorem State.advance_mem : (s.advance).mem = s.mem := rfl
@[simp] theorem State.advance_fb : (s.advance).fb = s.fb := rfl
@[simp] theorem State.advance_key : (s.advance).key = s.key := rfl
@[simp] theorem State.advance_life : (s.advance).life = s.life := rfl
@[simp] theorem State.advance_kill : (s.advance).kill = s.kill := rfl
@[simp] theorem State.advance_fault : (s.advance).fault = s.fault := rfl
@[simp] theorem State.advance_params : (s.advance).params = s.params := rfl
@[simp] theorem State.advance_schedule : (s.advance).schedule = s.schedule := rfl
@[simp] theorem State.advance_turn : (s.advance).turn = s.turn := rfl
@[simp] theorem State.advance_draws : (s.advance).draws = s.draws := rfl
@[simp] theorem State.advance_loadError : (s.advance).loadError = s.loadError := rfl
@[simp] theorem State.advance_diag : (s.advance).diag = s.diag := rfl
@[simp] theorem State.advance_frame : (s.advance).frame = s.frame := rfl

end advance

section writeByte
variable (s : State) (a : Nat) (b : Byte)
@[simp] theorem State.writeByte_v : (s.writeByte a b).v = s.v := rfl
@[simp] theorem State.writeByte_i : (s.writeByte a b).i = s.i := rfl
@[simp] theorem State.writeByte_pc : (s.writeByte a b).pc = s.pc := rfl
@[simp] theorem State.writeByte_sp : (s.writeByte a b).sp = s.sp := rfl
@[simp] theorem State.writeByte_stack : (s.writeByte a b).stack = s.stack := rfl
@[simp] theorem State.writeByte_dt : (s.writeByte a b).dt = s.dt := rfl
@[simp] theorem State.writeByte_st : (s.writeByte a b).st = s.st := rfl
@[simp] theorem State.writeByte_mem : (s.writeByte a b).mem = Memory.write s.params.font s.mem a b := rfl
@[simp] theorem State.writeByte_fb : (s.writeByte a b).fb = s.fb := rfl
@[simp] theorem State.writeByte_key : (s.writeByte a b).key = s.key := rfl
@[simp] theorem State.writeByte_life : (s.writeByte a b).life = s.life := rfl
@[simp] theorem State.writeByte_kill : (s.writeByte a b).kill = s.kill := rfl
@[simp] theorem State.writeByte_fault : (s.writeByte a b).fault = s.fault := rfl
@[simp] theorem State.writeByte_params : (s.writeByte a b).params = s.params := rfl
@[simp] theorem State.writeByte_schedule : (s.writeByte a b).schedule = s.schedule := rfl
@[simp] theorem State.writeByte_turn : (s.writeByte a b).turn = s.turn := rfl
@[simp] theorem State.writeByte_draws : (s.writeByte a b).draws = s.draws := rfl
@[simp] theorem State.writeByte_loadError : (s.writeByte a b).loadError = s.loadError := rfl
@[simp] theorem State.writeByte_diag : (s.writeByte a b).diag = s.diag := rfl
@[simp] theorem State.writeByte_frame : (s.writeByte a b).frame = s.frame := rfl

end writeByte

section setRegAndFlag
variable (s : State) (x : Reg) (b : Byte) (c : Bool)
@[simp] theorem State.setRegAndFlag_v : (s.setRegAndFlag x b c).v = (s.v.set x.toNat b x.isLt).set 15 (flagByte c) := rfl
@[simp] theorem State.setRegAndFlag_i : (s.setRegAndFlag x b c).i = s.i := rfl
@[simp] theorem State.setRegAndFlag_pc : (s.setRegAndFlag x b c).pc = s.pc := rfl
@[simp] theorem State.setRegAndFlag_sp : (s.setRegAndFlag x b c).sp = s.sp := rfl
@[simp] theorem State.setRegAndFlag_stack : (s.setRegAndFlag x b c).stack = s.stack := rfl
@[simp] theorem State.setRegAndFlag_dt : (s.setRegAndFlag x b c).dt = s.dt := rfl
@[simp] theorem State.setRegAndFlag_st : (s.setRegAndFlag x b c).st = s.st := rfl
@[simp] theorem State.setRegAndFlag_mem : (s.setRegAndFlag x b c).mem = s.mem := rfl
@[simp] theorem State.setRegAndFlag_fb : (s.setRegAndFlag x b c).fb = s.fb := rfl
@[simp] theorem State.setRegAndFlag_key : (s.setRegAndFlag x b c).key = s.key := rfl
@[simp] theorem State.setRegAndFlag_life : (s.setRegAndFlag x b c).life = s.life := rfl
@[simp] theorem State.setRegAndFlag_kill : (s.setRegAndFlag x b c).kill = s.kill := rfl
@[simp] theorem State.setRegAndFlag_fault : (s.setRegAndFlag x b c).fault = s.fault := rfl
@[simp] theorem State.setRegAndFlag_params : (s.setRegAndFlag x b c).params = s.params := rfl
@[simp] theorem State.setRegAndFlag_schedule : (s.setRegAndFlag x b c).schedule = s.schedule := rfl
@[simp] theorem State.setRegAndFlag_turn : (s.setRegAndFlag x b c).turn = s.turn := rfl
@[simp] theorem State.setRegAndFlag_draws : (s.setRegAndFlag x b c).draws = s.draws := rfl
@[simp] theorem State.setRegAndFlag_loadError : (s.setRegAndFlag x b c).loadError = s.loadError := rfl
@[simp] theorem State.setRegAndFlag_diag : (s.setRegAndFlag x b c).diag = s.diag := rfl
@[simp] theorem State.setRegAndFlag_frame : (s.setRegAndFlag x b c).frame = s.frame := rfl

end setRegAndFlag

section raiseStackFault
variable (s : State) (f : StackFault)
@[simp] theorem State.raiseStackFault_v : (s.raiseStackFault f).v = s.v := rfl
@[simp] theorem State.raiseStackFault_i : (s.raiseStackFault f).i = s.i := rfl
@[simp] theorem State.raiseStackFault_pc : (s.raiseStackFault f).pc = s.pc := rfl
@[simp] theorem State.raiseStackFault_sp : (s.raiseStackFault f).sp = s.sp := rfl
@[simp] theorem State.raiseStackFault_stack : (s.raiseStackFault f).stack = s.stack := rfl
@[simp] theorem State.raiseStackFault_dt : (s.raiseStackFault f).dt = s.dt := rfl
@[simp] theorem State.raiseStackFault_st : (s.raiseStackFault f).st = s.st := rfl
@[simp] theorem State.raiseStackFault_mem : (s.raiseStackFault f).mem = s.mem := rfl
@[simp] theorem State.raiseStackFault_fb : (s.raiseStackFault f).fb = s.fb := rfl
@[simp] theorem State.raiseStackFault_key : (s.raiseStackFault f).key = s.key := rfl
@[simp] theorem State.raiseStackFault_life : (s.raiseStackFault f).life = s.life := rfl
@[simp] theorem State.raiseStackFault_kill : (s.raiseStackFault f).kill = s.kill := rfl
@[simp] theorem State.raiseStackFault_fault : (s.raiseStackFault f).fault = f := rfl
@[simp] theorem State.raiseStackFault_params : (s.raiseStackFault f).params = s.params := rfl
@[simp] theorem State.raiseStackFault_schedule : (s.raiseStackFault f).schedule = s.schedule := rfl
@[simp] theorem State.raiseStackFault_turn : (s.raiseStackFault f).turn = s.turn := rfl
@[simp] theorem State.raiseStackFault_draws : (s.raiseStackFault f).draws = s.draws := rfl
@[simp] theorem State.raiseStackFault_loadError : (s.raiseStackFault f).loadError = s.loadError := rfl
@[simp] theorem State.raiseStackFault_diag : (s.raiseStackFault f).diag = s.diag := rfl
@[simp] theorem State.raiseStackFault_frame : (s.raiseStackFault f).frame = s.frame := rfl

end raiseStackFault

section raiseDecodeError
variable (s : State) (w : Word)
@[simp] theorem State.raiseDecodeError_v : (s.raiseDecodeError w).v = s.v := rfl
@[simp] theorem State.raiseDecodeError_i : (s.raiseDecodeError w).i = s.i := rfl
@[simp] theorem State.raiseDecodeError_pc : (s.raiseDecodeError w).pc = s.pc := rfl
@[simp] theorem State.raiseDecodeError_sp : (s.raiseDecodeError w).sp = s.sp := rfl
@[simp] theorem State.raiseDecodeError_stack : (s.raiseDecodeError w).stack = s.stack := rfl
@[simp] theorem State.raiseDecodeError_dt : (s.raiseDecodeError w).dt = s.dt := rfl
@[simp] theorem State.raiseDecodeError_st : (s.raiseDecodeError w).st = s.st := rfl
@[simp] theorem State.raiseDecodeError_mem : (s.raiseDecodeError w).mem = s.mem := rfl
@[simp] theorem State.raiseDecodeError_fb : (s.raiseDecodeError w).fb = s.fb := rfl
@[simp] theorem State.raiseDecodeError_key : (s.raiseDecodeError w).key = s.key := rfl
@[simp] theorem State.raiseDecodeError_life : (s.raiseDecodeError w).life = s.life := rfl
@[simp] theorem State.raiseDecodeError_kill : (s.raiseDecodeError w).kill = s.kill := rfl
@[simp] theorem State.raiseDecodeError_fault : (s.raiseDecodeError w).fault = s.fault := rfl
@[simp] theorem State.raiseDecodeError_params : (s.raiseDecodeError w).params = s.params := rfl
@[simp] theorem State.raiseDecodeError_schedule : (s.raiseDecodeError w).schedule = s.schedule := rfl
@[simp] theorem State.raiseDecodeError_turn : (s.raiseDecodeError w).turn = s.turn := rfl
@[simp] theorem State.raiseDecodeError_draws : (s.raiseDecodeError w).draws = s.draws := rfl
@[simp] theorem State.raiseDecodeError_loadError : (s.raiseDecodeError w).loadError = s.loadError := rfl
@[simp] theorem State.raiseDecodeError_diag : (s.raiseDecodeError w).diag = some ⟨s.pc, w⟩ := rfl
@[simp] theorem State.raiseDecodeError_frame : (s.raiseDecodeError w).frame = s.frame := rfl

end raiseDecodeError

section render
variable (s : State)
@[simp] theorem State.render_v : (s.render).v = s.v := rfl
@[simp] theorem State.render_i : (s.render).i = s.i := rfl
@[simp] theorem State.render_pc : (s.render).pc = s.pc := rfl
@[simp] theorem State.render_sp : (s.render).sp = s.sp := rfl
@[simp] theorem State.render_stack : (s.render).stack = s.stack := rfl
@[simp] theorem State.render_dt : (s.render).dt = s.dt := rfl
@[simp] theorem State.render_st : (s.render).st = s.st := rfl
@[simp] theorem State.render_mem : (s.render).mem = s.mem := rfl
@[simp] theorem State.render_fb : (s.render).fb = s.fb := rfl
@[simp] theorem State.render_key : (s.render).key = s.key := rfl
@[simp] theorem State.render_life : (s.render).life = s.life := rfl
@[simp] theorem State.render_kill : (s.render).kill = s.kill := rfl
@[simp] theorem State.render_fault : (s.render).fault = s.fault := rfl
@[simp] theorem State.render_params : (s.render).params = s.params := rfl
@[simp] theorem State.render_schedule : (s.render).schedule = s.schedule := rfl
@[simp] theorem State.render_turn : (s.render).turn = s.turn := rfl
@[simp] theorem State.render_draws : (s.render).draws = s.draws := rfl
@[simp] theorem State.render_loadError : (s.render).loadError = s.loadError := rfl
@[simp] theorem State.render_diag : (s.render).diag = s.diag := rfl
@[simp] theorem State.render_frame : (s.render).frame = some s.fb := rfl

end render

section begin
variable (s : State)
@[simp] theorem State.begin_v : (s.begin).v = s.v := rfl
@[simp] theorem State.begin_i : (s.begin).i = s.i := rfl
@[simp] theorem State.begin_pc : (s.begin).pc = s.pc := rfl
@[simp] theorem State.begin_sp : (s.begin).sp = s.sp := rfl
@[simp] theorem State.begin_stack : (s.begin).stack = s.stack := rfl
@[simp] theorem State.begin_dt : (s.begin).dt = s.dt := rfl
@[simp] theorem State.begin_st : (s.begin).st = s.st := rfl
@[simp] theorem State.begin_mem : (s.begin).mem = s.mem := rfl
@[simp] theorem State.begin_fb : (s.begin).fb = s.fb := rfl
@[simp] theorem State.begin_key : (s.begin).key = s.key := rfl
@[simp] theorem State.begin_life : (s.begin).life = s.life := rfl
@[simp] theorem State.begin_kill : (s.begin).kill = s.kill := rfl
@[simp] theorem State.begin_fault : (s.begin).fault = s.fault := rfl
@[simp] theorem State.begin_params : (s.begin).params = s.params := rfl
@[simp] theorem State.begin_schedule : (s.begin).schedule = s.schedule.tail := rfl
@[simp] theorem State.begin_turn : (s.begin).turn = s.turn + 1 := rfl
@[simp] theorem State.begin_draws : (s.begin).draws = s.draws := rfl
@[simp] theorem State.begin_loadError : (s.begin).loadError = s.loadError := rfl
@[simp] theorem State.begin_diag : (s.begin).diag = none := rfl
@[simp] theorem State.begin_frame : (s.begin).frame = none := rfl

end begin

section stopSession
variable (s : State)
@[simp] theorem State.stopSession_v : (s.stopSession).v = s.v := rfl
@[simp] theorem State.stopSession_i : (s.stopSession).i = s.i := rfl
@[simp] theorem State.stopSession_pc : (s.stopSession).pc = s.pc := rfl
@[simp] theorem State.stopSession_sp : (s.stopSession).sp = s.sp := rfl
@[simp] theorem State.stopSession_stack : (s.stopSession).stack = s.stack := rfl
@[simp] theorem State.stopSession_dt : (s.stopSession).dt = s.dt := rfl
@[simp] theorem State.stopSession_st : (s.stopSession).st = s.st := rfl
@[simp] theorem State.stopSession_mem : (s.stopSession).mem = s.mem := rfl
@[simp] theorem State.stopSession_fb : (s.stopSession).fb = s.fb := rfl
@[simp] theorem State.stopSession_key : (s.stopSession).key = s.key := rfl
@[simp] theorem State.stopSession_life : (s.stopSession).life = .stopped := rfl
@[simp] theorem State.stopSession_kill : (s.stopSession).kill = false := rfl
@[simp] theorem State.stopSession_fault : (s.stopSession).fault = s.fault := rfl
@[simp] theorem State.stopSession_params : (s.stopSession).params = s.params := rfl
@[simp] theorem State.stopSession_schedule : (s.stopSession).schedule = s.schedule := rfl
@[simp] theorem State.stopSession_turn : (s.stopSession).turn = s.turn := rfl
@[simp] theorem State.stopSession_draws : (s.stopSession).draws = s.draws := rfl
@[simp] theorem State.stopSession_loadError : (s.stopSession).loadError = s.loadError := rfl
@[simp] theorem State.stopSession_diag : (s.stopSession).diag = s.diag := rfl
@[simp] theorem State.stopSession_frame : (s.stopSession).frame = s.frame := rfl

end stopSession

section tick
variable (s : State)
@[simp] theorem State.tick_v : (s.tick).v = s.v := rfl
@[simp] theorem State.tick_i : (s.tick).i = s.i := rfl
@[simp] theorem State.tick_pc : (s.tick).pc = s.pc := rfl
@[simp] theorem State.tick_sp : (s.tick).sp = s.sp := rfl
@[simp] theorem State.tick_stack : (s.tick).stack = s.stack := rfl
@[simp] theorem State.tick_dt : (s.tick).dt = countDown s.dt := rfl
@[simp] theorem State.tick_st : (s.tick).st = countDown s.st := rfl
@[simp] theorem State.tick_mem : (s.tick).mem = s.mem := rfl
@[simp] theorem State.tick_fb : (s.tick).fb = s.fb := rfl
@[simp] theorem State.tick_key : (s.tick).key = s.key := rfl
@[simp] theorem State.tick_life : (s.tick).life = s.life := rfl
@[simp] theorem State.tick_kill : (s.tick).kill = s.kill := rfl
@[simp] theorem State.tick_fault : (s.tick).fault = s.fault := rfl
@[simp] theorem State.tick_params : (s.tick).params = s.params := rfl
@[simp] theorem State.tick_schedule : (s.tick).schedule = s.schedule := rfl
@[simp] theorem State.tick_turn : (s.tick).turn = s.turn := rfl
@[simp] theorem State.tick_draws : (s.tick).draws = s.draws := rfl
@[simp] theorem State.tick_loadError : (s.tick).loadError = s.loadError := rfl
@[simp] theorem State.tick_diag : (s.tick).diag = s.diag := rfl
@[simp] theorem State.tick_frame : (s.tick).frame = s.frame := rfl

end tick

section keyChange
variable (s : State) (keyIn : BitVec 16)
@[simp] theorem State.keyChange_v : (s.keyChange keyIn).v = s.v := rfl
@[simp] theorem State.keyChange_i : (s.keyChange keyIn).i = s.i := rfl
@[simp] theorem State.keyChange_pc : (s.keyChange keyIn).pc = s.pc := rfl
@[simp] theorem State.keyChange_sp : (s.keyChange keyIn).sp = s.sp := rfl
@[simp] theorem State.keyChange_stack : (s.keyChange keyIn).stack = s.stack := rfl
@[simp] theorem State.keyChange_dt : (s.keyChange keyIn).dt = s.dt := rfl
@[simp] theorem State.keyChange_st : (s.keyChange keyIn).st = s.st := rfl
@[simp] theorem State.keyChange_mem : (s.keyChange keyIn).mem = s.mem := rfl
@[simp] theorem State.keyChange_fb : (s.keyChange keyIn).fb = s.fb := rfl
@[simp] theorem State.keyChange_key : (s.keyChange keyIn).key = keyIn := rfl
@[simp] theorem State.keyChange_life : (s.keyChange keyIn).life = s.life := rfl
@[simp] theorem State.keyChange_kill : (s.keyChange keyIn).kill = s.kill := rfl
@[simp] theorem State.keyChange_fault : (s.keyChange keyIn).fault = s.fault := rfl
@[simp] theorem State.keyChange_params : (s.keyChange keyIn).params = s.params := rfl
@[simp] theorem State.keyChange_schedule : (s.keyChange keyIn).schedule = s.schedule := rfl
@[simp] theorem State.keyChange_turn : (s.keyChange keyIn).turn = s.turn := rfl
@[simp] theorem State.keyChange_draws : (s.keyChange keyIn).draws = s.draws := rfl
@[simp] theorem State.keyChange_loadError : (s.keyChange keyIn).loadError = s.loadError := rfl
@[simp] theorem State.keyChange_diag : (s.keyChange keyIn).diag = s.diag := rfl
@[simp] theorem State.keyChange_frame : (s.keyChange keyIn).frame = s.frame := rfl

end keyChange

section powerOn
variable (s : State)
@[simp] theorem State.powerOn_v : (s.powerOn).v = s.v := rfl
@[simp] theorem State.powerOn_i : (s.powerOn).i = s.i := rfl
@[simp] theorem State.powerOn_pc : (s.powerOn).pc = s.pc := rfl
@[simp] theorem State.powerOn_sp : (s.powerOn).sp = s.sp := rfl
@[simp] theorem State.powerOn_stack : (s.powerOn).stack = s.stack := rfl
@[simp] theorem State.powerOn_dt : (s.powerOn).dt = s.dt := rfl
@[simp] theorem State.powerOn_st : (s.powerOn).st = s.st := rfl
@[simp] theorem State.powerOn_mem : (s.powerOn).mem = s.mem := rfl
@[simp] theorem State.powerOn_fb : (s.powerOn).fb = s.fb := rfl
@[simp] theorem State.powerOn_key : (s.powerOn).key = s.key := rfl
@[simp] theorem State.powerOn_life : (s.powerOn).life = .stopped := rfl
@[simp] theorem State.powerOn_kill : (s.powerOn).kill = s.kill := rfl
@[simp] theorem State.powerOn_fault : (s.powerOn).fault = s.fault := rfl
@[simp] theorem State.powerOn_params : (s.powerOn).params = s.params := rfl
@[simp] theorem State.powerOn_schedule : (s.powerOn).schedule = s.schedule := rfl
@[simp] theorem State.powerOn_turn : (s.powerOn).turn = s.turn := rfl
@[simp] theorem State.powerOn_draws : (s.powerOn).draws = s.draws := rfl
@[simp] theorem State.powerOn_loadError : (s.powerOn).loadError = s.loadError := rfl
@[simp] theorem State.powerOn_diag : (s.powerOn).diag = s.diag := rfl
@[simp] theorem State.powerOn_frame : (s.powerOn).frame = s.frame := rfl

end powerOn

/-- A skip writes PC and nothing else. -/
theorem State.skipIf_eq (s : State) (c : Bool) : s.skipIf c = s.setPc (if c then s.pc + 4 else s.pc + 2) := by
  cases c <;> rfl

/-- A draw counts itself and changes nothing else. -/
theorem State.drawRnd_eq (s : State) : s.drawRnd = (Config.rnd s.draws, { s with draws := s.draws + 1 }) := rfl

end Sys2Proof.Machine
end

