-- ==== Sys2Proof/Laws/Memory.lean ====
section
/-! SUPPORT. What reading and writing memory do: a write keeps the canonical form, the address written reads the byte, every
other address reads as before. -/

namespace Sys2Proof.Machine

@[simp] theorem Memory.lookup_nil (a : Nat) : Memory.lookup [] a = none := rfl

theorem Memory.lookup_cons (c : Host.Cell) (m : List Host.Cell) (a : Nat) :
    Memory.lookup (c :: m) a = if c.1 = a then some c.2 else Memory.lookup m a := rfl

/-- An address below every listed one is not listed. -/
theorem Memory.lookup_of_lt {m : List Host.Cell} {a : Nat} (h : ∀ c ∈ m, a < c.1) : Memory.lookup m a = none := by
  induction m with
  | nil => rfl
  | cons c m ih =>
    have := h c (by simp)
    rw [Memory.lookup_cons, if_neg (by omega), ih (fun d hd => h d (by simp [hd]))]

theorem Memory.put_cons (d : Byte) (c : Host.Cell) (m : List Host.Cell) (a : Nat) (v : Byte) :
    Memory.put d (c :: m) a v =
      if a < c.1 then (if v = d then c :: m else (a, v) :: c :: m)
      else if a = c.1 then (if v = d then m else (a, v) :: m)
      else c :: Memory.put d m a v := rfl

/-- Every entry after a write was there before it or is the one written. -/
theorem Memory.mem_put {d : Byte} {m : List Host.Cell} {a : Nat} {v : Byte} {c : Host.Cell}
    (h : c ∈ Memory.put d m a v) : c ∈ m ∨ (c = (a, v) ∧ v ≠ d) := by
  induction m with
  | nil => by_cases hv : v = d <;> simp_all [Memory.put]
  | cons e m ih =>
    rw [Memory.put_cons] at h
    split_ifs at h <;> simp_all <;> tauto

/-- On rising addresses, the byte an address stands for after a write, when an unlisted one stands for `d`. -/
theorem Memory.lookup_put (d : Nat → Byte) {m : List Host.Cell} (hm : m.Pairwise (fun c e => c.1 < e.1))
    (a b : Nat) (v : Byte) :
    (Memory.lookup (Memory.put (d a) m a v) b).getD (d b) = if a = b then v else (Memory.lookup m b).getD (d b) := by
  induction m with
  | nil =>
    by_cases hv : v = d a <;> by_cases hab : a = b <;> simp_all [Memory.put, Memory.lookup_cons]
  | cons c m ih =>
    obtain ⟨hc, hm⟩ := List.pairwise_cons.mp hm
    rw [Memory.put_cons]
    by_cases hlt : a < c.1
    · rw [if_pos hlt]
      have hnone : Memory.lookup (c :: m) a = none := by
        refine Memory.lookup_of_lt fun e he => ?_
        rcases List.mem_cons.mp he with rfl | he
        · exact hlt
        · exact hlt.trans (hc e he)
      by_cases hv : v = d a
      · by_cases hab : a = b
        · subst hab; simp [hv, hnone]
        · simp [hv, hab]
      · rw [if_neg hv, Memory.lookup_cons]; by_cases hab : a = b <;> simp [hab]
    · rw [if_neg hlt]
      by_cases hac : a = c.1
      · have hnone : Memory.lookup m a = none := Memory.lookup_of_lt fun e he => hac ▸ hc e he
        rw [if_pos hac]
        by_cases hab : a = b
        · subst hab; by_cases hv : v = d a <;> simp [hv, hnone, Memory.lookup_cons]
        · have : c.1 ≠ b := fun h => hab (hac.trans h)
          by_cases hv : v = d a <;> simp [hv, hab, Memory.lookup_cons, this]
      · rw [if_neg hac, Memory.lookup_cons, Memory.lookup_cons]
        by_cases hcb : c.1 = b
        · have : a ≠ b := fun h => hac (h.trans hcb.symm)
          simp [hcb, this]
        · rw [if_neg hcb, if_neg hcb]; exact ih hm

/-- A write keeps the canonical form. -/
theorem Memory.put_wf {font : Font} {m : List Host.Cell} (hm : Memory.wf font m) {a : Nat} (ha : a < 4096) (v : Byte) :
    Memory.wf font (Memory.put (Memory.unlisted font a) m a v) := by
  refine ⟨?_, fun c hc => ?_⟩
  · obtain ⟨hp, -⟩ := hm
    induction m with
    | nil => by_cases hv : v = Memory.unlisted font a <;> simp [Memory.put, hv]
    | cons c m ih =>
      obtain ⟨hc, hp⟩ := List.pairwise_cons.mp hp
      rw [Memory.put_cons]
      split_ifs with h1 h2 h3 h4
      · exact List.pairwise_cons.mpr ⟨hc, hp⟩
      · refine List.pairwise_cons.mpr ⟨fun e he => ?_, List.pairwise_cons.mpr ⟨hc, hp⟩⟩
        rcases List.mem_cons.mp he with rfl | he
        · exact h1
        · exact h1.trans (hc e he)
      · exact hp
      · exact List.pairwise_cons.mpr ⟨fun e he => h3 ▸ hc e he, hp⟩
      · refine List.pairwise_cons.mpr ⟨fun e he => ?_, ih hp⟩
        rcases Memory.mem_put he with he | ⟨rfl, -⟩
        · exact hc e he
        · show c.1 < a
          omega
  · rcases Memory.mem_put hc with hc | ⟨rfl, hv⟩
    · exact hm.2 c hc
    · exact ⟨ha, hv⟩

theorem Memory.reduce_lt (a : Nat) : Memory.reduce a < 4096 := Nat.mod_lt _ (by decide)

theorem Memory.reduce_eq (a : Nat) : Memory.reduce a = a % 4096 := rfl

/-- What a read sees of a write. -/
theorem Memory.read_write {font : Font} {m : List Host.Cell} (hm : Memory.wf font m) (a b : Nat) (v : Byte) :
    Memory.read font (Memory.write font m a v) b = if a % 4096 = b % 4096 then v else Memory.read font m b :=
  Memory.lookup_put (Memory.unlisted font) hm.1 (Memory.reduce a) (Memory.reduce b) v

/-- A write keeps the canonical form. -/
theorem Memory.write_wf {font : Font} {m : List Host.Cell} (hm : Memory.wf font m) (a : Nat) (v : Byte) :
    Memory.wf font (Memory.write font m a v) := Memory.put_wf hm (Memory.reduce_lt a) v

/-- What a read sees of a write (R82, R88). -/
theorem State.readByte_writeByte {s : State} (h : s.memWf) (a b : Nat) (v : Byte) :
    (s.writeByte a v).readByte b = if a % 4096 = b % 4096 then v else s.readByte b := Memory.read_write h a b v

theorem State.writeByte_memWf {s : State} (h : s.memWf) (a : Nat) (v : Byte) : (s.writeByte a v).memWf :=
  Memory.write_wf h a v

/-- Every access reduces its address (R82). -/
theorem State.readByte_mod (s : State) (a : Nat) : s.readByte (a % 4096) = s.readByte a := by
  simp [State.readByte, Memory.read, Memory.reduce_eq]

/-- A read looks at memory and the font only. -/
theorem State.readByte_congr {s t : State} (hm : t.mem = s.mem) (hp : t.params = s.params) (a : Nat) :
    t.readByte a = s.readByte a := by simp [State.readByte, hm, hp]

theorem State.reset_memWf : State.reset.memWf := by decide

/-! ### Groups of writes -/

/-- A dump of registers writes memory only. -/
theorem State.dumpRegs_eq (s : State) (n : Nat) : s.dumpRegs n = { s with mem := (s.dumpRegs n).mem } := by
  have h : ∃ m, s.dumpRegs n = { s with mem := m } := by
    induction n with
    | zero => exact ⟨s.mem, rfl⟩
    | succ n ih => obtain ⟨m, h⟩ := ih; exact ⟨_, by rw [State.dumpRegs, h]; rfl⟩
  obtain ⟨m, h⟩ := h
  rw [h]

theorem State.dumpRegs_memWf {s : State} (h : s.memWf) (n : Nat) : (s.dumpRegs n).memWf := by
  induction n with
  | zero => exact h
  | succ n ih => exact State.writeByte_memWf ih _ _

/-- A dump of the first n registers leaves every byte outside its n addresses alone (R234). -/
theorem State.readByte_dumpRegs_outside {s : State} (h : s.memWf) (n a : Nat)
    (ha : ∀ k < n, a % 4096 ≠ s.indexed k % 4096) : (s.dumpRegs n).readByte a = s.readByte a := by
  induction n with
  | zero => rfl
  | succ n ih =>
    rw [State.dumpRegs, State.readByte_writeByte (State.dumpRegs_memWf h n), if_neg (Ne.symm (ha n n.lt_succ_self))]
    exact ih fun k hk => ha k (by omega)

/-- A dump of the first n registers leaves register k at I + k (R234). -/
theorem State.readByte_dumpRegs {s : State} (h : s.memWf) (n : Nat) (hn : n ≤ 16) (k : Nat) (hk : k < n) :
    (s.dumpRegs n).readByte (s.indexed k) = s.reg (BitVec.ofNat 4 k) := by
  induction n with
  | zero => omega
  | succ n ih =>
    rw [State.dumpRegs, State.readByte_writeByte (State.dumpRegs_memWf h n)]
    by_cases e : n = k
    · subst e; simp
    · rw [if_neg (by simp only [State.indexed]; omega)]; exact ih (by omega) (by omega)

/-- Loading a program writes memory only. -/
theorem State.loadFrom_eq (s : State) (rom : List Byte) (a : Nat) :
    s.loadFrom a rom = { s with mem := (s.loadFrom a rom).mem } := by
  have h : ∃ m, s.loadFrom a rom = { s with mem := m } := by
    induction rom generalizing a with
    | nil => exact ⟨s.mem, rfl⟩
    | cons b rom ih => obtain ⟨m, h⟩ := ih (a + 1); exact ⟨_, by rw [State.loadFrom, h]; rfl⟩
  obtain ⟨m, h⟩ := h
  rw [h]

/-- What a loaded program makes of memory depends on memory and the font only. -/
theorem State.loadFrom_mem_congr {s t : State} (hm : t.mem = s.mem) (hp : t.params = s.params) (rom : List Byte) (a : Nat) :
    (t.loadFrom a rom).mem = (s.loadFrom a rom).mem := by
  induction rom generalizing a with
  | nil => exact hm
  | cons b rom ih =>
    have hps : (s.loadFrom (a + 1) rom).params = s.params := by rw [State.loadFrom_eq]
    have hpt : (t.loadFrom (a + 1) rom).params = t.params := by rw [State.loadFrom_eq]
    simp only [State.loadFrom, State.writeByte_mem, ih, hps, hpt, hp]

theorem State.loadFrom_memWf {s : State} (h : s.memWf) (rom : List Byte) (a : Nat) : (s.loadFrom a rom).memWf := by
  induction rom generalizing a with
  | nil => exact h
  | cons b rom ih => exact State.writeByte_memWf (ih _) _ _

/-- What a loaded program leaves at each address below 4096. -/
theorem State.readByte_loadFrom {s : State} (h : s.memWf) (rom : List Byte) (a b : Nat)
    (fits : a + rom.length ≤ 4096) (hb : b < 4096) :
    (s.loadFrom a rom).readByte b = if hr : a ≤ b ∧ b < a + rom.length then rom[b - a] else s.readByte b := by
  induction rom generalizing a with
  | nil => simp [State.loadFrom]
  | cons c rom ih =>
    simp only [List.length_cons] at fits
    rw [State.loadFrom, State.readByte_writeByte (State.loadFrom_memWf h rom _), ih (a + 1) (by omega)]
    rw [Nat.mod_eq_of_lt hb, Nat.mod_eq_of_lt (by omega : a < 4096)]
    by_cases hab : a = b
    · subst hab; simp
    · rw [if_neg hab]
      by_cases hr : a + 1 ≤ b ∧ b < a + 1 + rom.length
      · have hr' : a ≤ b ∧ b < a + (c :: rom).length := by simp only [List.length_cons]; omega
        rw [dif_pos hr, dif_pos hr']
        have : b - a = (b - (a + 1)) + 1 := by omega
        simp [this]
      · have hr' : ¬(a ≤ b ∧ b < a + (c :: rom).length) := by simp only [List.length_cons]; omega
        rw [dif_neg hr, dif_neg hr']

end Sys2Proof.Machine
end

