-- ==== Sys2Proof/Laws/Boot.lean ====
section
/-! SUPPORT. What a boot command does, said once: refused, it stops the session and reports; accepted, it leaves a state that
depends on the program and on the fields no boot touches, and on nothing else. -/

namespace Sys2Proof.Machine

/-- A program that is too long: a running session is stopped, load_error is set, and nothing else changes (R308, R351). -/
theorem State.bootCmd_refused (s : State) {rom : List Byte} (h : 3584 < rom.length) :
    s.bootCmd rom = { (if s.life = .running then s.stopSession else s) with loadError := true } :=
  if_pos (show rom.length > Config.romMax from h)

/-- A program that fits: Reset, the program in memory, the entry point, Running (R351). The session that was stopped leaves no
trace. -/
theorem State.bootCmd_accepted (s : State) {rom : List Byte} (h : rom.length ≤ 3584) :
    s.bootCmd rom = { s.resetAll with
      mem := (s.resetAll.loadFrom 0x200 rom).mem, pc := 0x200, loadError := false, life := .running } := by
  unfold State.bootCmd
  simp only
  rw [if_neg (show ¬rom.length > Config.romMax from Nat.not_lt.mpr h), State.loadProgram, State.loadFrom_eq]
  have loaded (u : State) (hu : u.params = s.params) := State.loadFrom_mem_congr (s := s.resetAll)
    (t := State.resetAll { u with life := .booting }) rfl hu rom Config.romBase
  split_ifs
  · rw [loaded s.stopSession rfl]; rfl
  · rw [loaded s rfl]; rfl

/-- Reset leaves canonical memory (R352). -/
theorem State.resetAll_memWf (s : State) : s.resetAll.memWf := by constructor <;> simp [State.resetAll]

/-- Reset leaves FONT below 0x050 and 0 above (R352). -/
theorem State.readByte_resetAll (s : State) {a : Nat} (ha : a < 4096) :
    s.resetAll.readByte a = Memory.unlisted s.params.font a := by
  simp [State.readByte, Memory.read, State.resetAll, Memory.reduce_eq, Nat.mod_eq_of_lt ha]

/-- Memory after an accepted boot: the program from 0x200 on, and elsewhere what Reset left (R352, R353). -/
theorem State.readByte_bootCmd (s : State) {rom : List Byte} (h : rom.length ≤ 3584) {a : Nat} (ha : a < 4096) :
    (s.bootCmd rom).readByte a =
      if hr : 0x200 ≤ a ∧ a < 0x200 + rom.length then rom[a - 0x200]'(by omega) else Memory.unlisted s.params.font a := by
  have fits : 0x200 + rom.length ≤ 4096 := by omega
  have same : (s.bootCmd rom).readByte a = (s.resetAll.loadFrom 0x200 rom).readByte a := by
    rw [State.bootCmd_accepted s h, State.loadFrom_eq]; rfl
  rw [same, State.readByte_loadFrom s.resetAll_memWf rom 0x200 a fits ha, State.readByte_resetAll s ha]

/-- An accepted boot leaves canonical memory. -/
theorem State.bootCmd_memWf (s : State) {rom : List Byte} (h : rom.length ≤ 3584) : (s.bootCmd rom).memWf := by
  rw [State.bootCmd_accepted s h]
  have := State.loadFrom_memWf s.resetAll_memWf rom 0x200
  rw [State.loadFrom_eq] at this
  exact this

end Sys2Proof.Machine
end

