-- ==== Sys2Proof/Laws/Registers.lean ====
section
/-! SUPPORT. What reading and writing the general registers and the return stack do. -/

namespace Sys2Proof.Machine

/-- What a register reads after another, or itself, is written. -/
theorem State.reg_setReg (s : State) (x y : Reg) (b : Byte) :
    (s.setReg x b).reg y = if x = y then b else s.reg y := by
  by_cases h : x = y
  · subst h; simp [State.reg]
  · have : x.toNat ≠ y.toNat := fun e => h (BitVec.eq_of_toNat_eq e)
    simp [State.reg, h, this]

/-- After a result and its flag, VF is the flag and, unless it is VF, the destination the result. -/
theorem State.reg_setRegAndFlag (s : State) (x y : Reg) (b : Byte) (c : Bool) :
    (s.setRegAndFlag x b c).reg y = if VF = y then flagByte c else if x = y then b else s.reg y := by
  rw [State.setRegAndFlag, State.reg_setReg, State.reg_setReg]

/-- A register reads V only. -/
theorem State.reg_congr {s t : State} (h : t.v = s.v) (x : Reg) : t.reg x = s.reg x := by simp [State.reg, h]

/-- Two states with equal registers have equal V. -/
theorem State.v_ext {s t : State} (h : ∀ x, t.reg x = s.reg x) : t.v = s.v := by
  refine Vector.ext fun k hk => ?_
  have := h (BitVec.ofNat 4 k)
  simpa [State.reg, Nat.mod_eq_of_lt hk] using this

/-- A load of registers writes V only. -/
theorem State.loadRegs_eq (s : State) (n : Nat) : s.loadRegs n = { s with v := (s.loadRegs n).v } := by
  have h : ∃ v, s.loadRegs n = { s with v := v } := by
    induction n with
    | zero => exact ⟨s.v, rfl⟩
    | succ n ih => obtain ⟨v, h⟩ := ih; exact ⟨_, by rw [State.loadRegs, h]; rfl⟩
  obtain ⟨v, h⟩ := h
  rw [h]

/-- A load of the first n registers: register k takes the byte at I + k, and the others keep their values (R235). -/
theorem State.reg_loadRegs (s : State) (n : Nat) (hn : n ≤ 16) (k : Reg) :
    (s.loadRegs n).reg k = if k.toNat < n then s.readByte (s.indexed k.toNat) else s.reg k := by
  induction n with
  | zero => simp [State.loadRegs]
  | succ n ih =>
    rw [State.loadRegs, State.reg_setReg, ih (by omega)]
    by_cases e : k.toNat = n
    · have : BitVec.ofNat 4 n = k := by subst e; simp
      rw [if_pos this, if_pos (by omega), e]
    · have : ¬BitVec.ofNat 4 n = k := by rintro rfl; apply e; simp; omega
      rw [if_neg this]; congr 1; simp; omega

/-- A push: the entry and SP, or, at the bound, what the policy does. -/
theorem State.push_cases (s : State) (ret : Word) :
    (∃ h : s.sp.val < 16, s.push ret =
      .ok { s with stack := s.stack.set s.sp.val ret h, sp := ⟨s.sp.val + 1, Nat.succ_lt_succ h⟩ }) ∨
    (s.sp = 16 ∧ s.params.stackPolicy = .fault ∧ s.push ret = .error .stackOverflow) ∨
    (s.sp = 16 ∧ s.params.stackPolicy = .wrap ∧ s.push ret = .ok { s with stack := s.stack.set 0 ret, sp := 1 }) ∨
    (s.sp = 16 ∧ s.params.stackPolicy = .clamp ∧ s.push ret = .ok { s with stack := s.stack.set 15 ret, sp := 16 }) := by
  by_cases h : s.sp.val < 16
  · exact .inl ⟨h, by rw [State.push, dif_pos h]⟩
  · have h16 : s.sp = 16 := Fin.ext (by have := s.sp.isLt; show s.sp.val = 16; omega)
    right
    cases hp : s.params.stackPolicy <;> simp [State.push, h16, hp]

/-- A pop: the entry and SP, or, at the bound, what the policy does. -/
theorem State.pop_cases (s : State) :
    (∃ h : 0 < s.sp.val, s.pop = .ok (s.stack[s.sp.val - 1]'(by have := s.sp.isLt; omega),
      { s with sp := ⟨s.sp.val - 1, by have := s.sp.isLt; omega⟩ })) ∨
    (s.sp = 0 ∧ s.params.stackPolicy = .fault ∧ s.pop = .error .stackUnderflow) ∨
    (s.sp = 0 ∧ s.params.stackPolicy = .wrap ∧ s.pop = .ok (s.stack[15], { s with sp := 15 })) ∨
    (s.sp = 0 ∧ s.params.stackPolicy = .clamp ∧ s.pop = .ok (s.stack[0], { s with sp := 0 })) := by
  by_cases h : 0 < s.sp.val
  · exact .inl ⟨h, by rw [State.pop, dif_pos h]⟩
  · have h0 : s.sp = 0 := Fin.ext (by show s.sp.val = 0; omega)
    right
    cases hp : s.params.stackPolicy <;> simp [State.pop, h0, hp]

end Sys2Proof.Machine
end

