-- ==== Sys2Proof/Laws/Display.lean ====
section
/-! SUPPORT. What the pixel operations do: a write is read back at its pixel, modulo 64 and 32, and nowhere else; a sprite
flips the pixels under its set bits and collides where one of them was 1. -/

namespace Sys2Proof.Machine

/-- What a pixel reads after one is written. -/
theorem Framebuffer.pixel_setPixel (fb : Framebuffer) (px py qx qy : Nat) (b : Bool) :
    Framebuffer.pixel (Framebuffer.setPixel fb px py b) qx qy =
      if px % 64 = qx % 64 ∧ py % 32 = qy % 32 then b else Framebuffer.pixel fb qx qy := by
  unfold Framebuffer.pixel Framebuffer.setPixel
  by_cases hx : px % 64 = qx % 64
  · by_cases hy : py % 32 = qy % 32 <;> simp [hx, hy]
  · simp [hx]

/-- Two pictures with equal pixels are equal. -/
theorem Framebuffer.ext_pixel {f g : Framebuffer}
    (h : ∀ px py, px < 64 → py < 32 → Framebuffer.pixel f px py = Framebuffer.pixel g px py) : f = g := by
  refine Vector.ext fun px hx => Vector.ext fun py hy => ?_
  have := h px py hx hy
  simpa [Framebuffer.pixel, Nat.mod_eq_of_lt hx, Nat.mod_eq_of_lt hy] using this

@[simp] theorem Framebuffer.pixel_blank (px py : Nat) : Framebuffer.pixel blankFramebuffer px py = false := by
  simp [Framebuffer.pixel, blankFramebuffer]

/-- One sprite bit flips its pixel, if it is set, and no other. -/
theorem Drawing.bit_pixel (d : Drawing) (px py qx qy : Nat) (sprite : Bool) :
    Framebuffer.pixel (Drawing.bit d px py sprite).1 qx qy =
      (Framebuffer.pixel d.1 qx qy ^^ (sprite && decide (px % 64 = qx % 64 ∧ py % 32 = qy % 32))) := by
  rw [Drawing.bit, Framebuffer.pixel_setPixel]
  by_cases h : px % 64 = qx % 64 ∧ py % 32 = qy % 32
  · simp [h, Framebuffer.pixel]
  · simp [h]

/-- One sprite bit adds a collision when its pixel was 1 and it is set. -/
theorem Drawing.bit_hit (d : Drawing) (px py : Nat) (sprite : Bool) :
    (Drawing.bit d px py sprite).2 = (d.2 || (Framebuffer.pixel d.1 px py && sprite)) := rfl

/-- Pixel (px, py) lies under a set bit among the first n of the sprite byte b drawn at (x0, y). -/
def RowSets (b : Byte) (x0 y n px py : Nat) : Prop :=
  ∃ c < n, px = (x0 + c) % 64 ∧ py = y % 32 ∧ b.getLsbD (7 - c) = true

/-- One sprite byte flips the pixels under its set bits and no other. -/
theorem Drawing.row_pixel (d : Drawing) (b : Byte) (x0 y n : Nat) (hn : n ≤ 8) (px py : Nat) (hx : px < 64) (hy : py < 32) :
    (RowSets b x0 y n px py → Framebuffer.pixel (d.row b x0 y n).1 px py = !Framebuffer.pixel d.1 px py) ∧
    (¬RowSets b x0 y n px py → Framebuffer.pixel (d.row b x0 y n).1 px py = Framebuffer.pixel d.1 px py) := by
  induction n with
  | zero => exact ⟨fun ⟨c, hc, _⟩ => by omega, fun _ => rfl⟩
  | succ n ih =>
    obtain ⟨ih1, ih2⟩ := ih (by omega)
    rw [Drawing.row, Drawing.bit_pixel]
    by_cases hp : (x0 + n) % 64 = px % 64 ∧ y % 32 = py % 32
    · have hno : ¬RowSets b x0 y n px py := by rintro ⟨c, hc, h1, h2, h3⟩; omega
      rw [ih2 hno]
      cases hb : b.getLsbD (7 - n)
      · refine ⟨?_, fun _ => by simp⟩
        rintro ⟨c, hc, h1, h2, h3⟩
        by_cases e : c = n
        · subst e; simp [hb] at h3
        · exact absurd ⟨c, by omega, h1, h2, h3⟩ hno
      · refine ⟨fun _ => by simp [hp], fun h => absurd ⟨n, by omega, by omega, by omega, hb⟩ h⟩
    · have : RowSets b x0 y (n + 1) px py ↔ RowSets b x0 y n px py := by
        constructor
        · rintro ⟨c, hc, h1, h2, h3⟩
          refine ⟨c, ?_, h1, h2, h3⟩
          by_contra hh
          have : c = n := by omega
          subst this; apply hp; omega
        · rintro ⟨c, hc, h⟩; exact ⟨c, by omega, h⟩
      rw [this]; simpa [hp] using ⟨ih1, ih2⟩

/-- One sprite byte adds a collision exactly when a pixel that was 1 lies under one of its set bits. -/
theorem Drawing.row_hit (d : Drawing) (b : Byte) (x0 y n : Nat) (hn : n ≤ 8) :
    (d.row b x0 y n).2 = true ↔
      d.2 = true ∨ ∃ px py, px < 64 ∧ py < 32 ∧ Framebuffer.pixel d.1 px py = true ∧ RowSets b x0 y n px py := by
  induction n with
  | zero => simp [Drawing.row, RowSets]
  | succ n ih =>
    rw [Drawing.row, Drawing.bit_hit, Bool.or_eq_true, ih (by omega)]
    have hpix : Framebuffer.pixel (d.row b x0 y n).1 (x0 + n) y = Framebuffer.pixel d.1 ((x0 + n) % 64) (y % 32) := by
      rw [← (Drawing.row_pixel d b x0 y n (by omega) ((x0 + n) % 64) (y % 32) (Nat.mod_lt _ (by decide))
        (Nat.mod_lt _ (by decide))).2 (by rintro ⟨c, hc, h1, h2, h3⟩; omega)]
      simp [Framebuffer.pixel]
    rw [hpix]
    constructor
    · rintro ((h | ⟨px, py, a, b, c, k, hk, h⟩) | h)
      · exact .inl h
      · exact .inr ⟨px, py, a, b, c, k, by omega, h⟩
      · simp only [Bool.and_eq_true] at h
        exact .inr ⟨_, _, Nat.mod_lt _ (by decide), Nat.mod_lt _ (by decide), h.1, n, by omega, rfl, rfl, h.2⟩
    · rintro (h | ⟨px, py, a, b, c, k, hk, h1, h2, h3⟩)
      · exact .inl (.inl h)
      · by_cases e : k = n
        · subst e h1 h2; right; simp [c, h3]
        · exact .inl (.inr ⟨px, py, a, b, c, k, by omega, h1, h2, h3⟩)

/-- The first n rows of a sprite flip the pixels under their set bits and no other (R253, R258). -/
theorem State.drawing_pixel (s : State) (x0 y0 n : Nat) (hn : n ≤ 15) (px py : Nat) (hx : px < 64) (hy : py < 32) :
    (SpriteSets s x0 y0 n px py → Framebuffer.pixel (s.drawing x0 y0 n).1 px py = !Framebuffer.pixel s.fb px py) ∧
    (¬SpriteSets s x0 y0 n px py → Framebuffer.pixel (s.drawing x0 y0 n).1 px py = Framebuffer.pixel s.fb px py) := by
  induction n with
  | zero => exact ⟨fun ⟨r, c, hc, _⟩ => by omega, fun _ => rfl⟩
  | succ n ih =>
    obtain ⟨ih1, ih2⟩ := ih (by omega)
    obtain ⟨r1, r2⟩ := Drawing.row_pixel (s.drawing x0 y0 n) (s.readByte (s.indexed n)) x0 (y0 + n) 8 le_rfl px py hx hy
    rw [State.drawing]
    by_cases hr : RowSets (s.readByte (s.indexed n)) x0 (y0 + n) 8 px py
    · have hno : ¬SpriteSets s x0 y0 n px py := by
        rintro ⟨r, c, hr', hc, h1, h2, h3⟩
        obtain ⟨c', _, _, h2', _⟩ := hr
        omega
      rw [r1 hr, ih2 hno]
      refine ⟨fun _ => rfl, fun h => absurd ?_ h⟩
      obtain ⟨c, h1, h2, h3, h4⟩ := hr
      exact ⟨n, c, by omega, h1, h2, h3, h4⟩
    · rw [r2 hr]
      have : SpriteSets s x0 y0 (n + 1) px py ↔ SpriteSets s x0 y0 n px py := by
        constructor
        · rintro ⟨r, c, hr', hc, h⟩
          by_cases e : r = n
          · subst e; exact absurd ⟨c, hc, h⟩ hr
          · exact ⟨r, c, by omega, hc, h⟩
        · rintro ⟨r, c, hr', h⟩; exact ⟨r, c, by omega, h⟩
      rw [this]; exact ⟨ih1, ih2⟩

/-- A sprite collides exactly when a pixel that was 1 lies under one of its set bits (R256). -/
theorem State.drawing_hit (s : State) (x0 y0 n : Nat) (hn : n ≤ 15) :
    (s.drawing x0 y0 n).2 = true ↔
      ∃ px py, px < 64 ∧ py < 32 ∧ Framebuffer.pixel s.fb px py = true ∧ SpriteSets s x0 y0 n px py := by
  induction n with
  | zero => simp [State.drawing, SpriteSets]
  | succ n ih =>
    rw [State.drawing, Drawing.row_hit _ _ _ _ _ le_rfl, ih (by omega)]
    constructor
    · rintro (⟨px, py, a, b, c, r, k, hk, h⟩ | ⟨px, py, a, b, c, k, hk, h⟩)
      · exact ⟨px, py, a, b, c, r, k, by omega, h⟩
      · refine ⟨px, py, a, b, ?_, n, k, by omega, hk, h⟩
        rw [← (State.drawing_pixel s x0 y0 n (by omega) px py a b).2 (by rintro ⟨r, c, hr', hc, h1, h2, h3⟩; omega)]
        exact c
    · rintro ⟨px, py, a, b, c, r, k, hr, hk, h⟩
      by_cases e : r = n
      · subst e
        refine .inr ⟨px, py, a, b, ?_, k, hk, h⟩
        rw [(State.drawing_pixel s x0 y0 r (by omega) px py a b).2 (by rintro ⟨r, c, hr', hc, h1, h2, h3⟩; omega)]
        exact c
      · exact .inl ⟨px, py, a, b, c, r, k, by omega, hk, h⟩

/-- A drawing looks at the picture, I and memory only. -/
theorem State.drawing_congr {s r : State} (hfb : r.fb = s.fb) (hi : r.i = s.i) (hm : r.mem = s.mem)
    (hp : r.params = s.params) (x0 y0 n : Nat) : r.drawing x0 y0 n = s.drawing x0 y0 n := by
  induction n with
  | zero => simp [State.drawing, hfb]
  | succ n ih => rw [State.drawing, State.drawing, ih, State.readByte_congr hm hp]; simp [State.indexed, hi]

end Sys2Proof.Machine
end

