-- ==== Sys2Proof/Laws/Exec.lean ====
section
/-! SUPPORT. What exec can do, said once: the two answers of 2nnn and of 00EE, and what every instruction leaves alone. -/

namespace Sys2Proof.Machine

/-- The zero-extended address field. -/
theorem addrWord_toNat (nnn : Addr) : (addrWord nnn).toNat = nnn.toNat := by
  have := nnn.isLt
  simp [addrWord]; omega

/-- A timer after a tick. -/
theorem countDown_toNat (b : Byte) : (countDown b).toNat = b.toNat - 1 := by
  have := b.isLt
  simp [countDown]; omega

/-- A call that pushes goes to its target. -/
theorem exec_call_of_push {s t : State} {nnn : Addr} (h : s.push (s.pc + 2) = .ok t) :
    exec (.call nnn) s = .next (t.setPc (addrWord nnn)) := by
  unfold exec execCall; rw [h]

/-- A call that cannot push raises. -/
theorem exec_call_of_error {s : State} {nnn : Addr} {f : StackFault} (h : s.push (s.pc + 2) = .error f) :
    exec (.call nnn) s = .next (s.raiseStackFault f) := by
  unfold exec execCall; rw [h]

/-- A return that pops goes to the popped entry. -/
theorem exec_ret_of_pop {s t : State} {w : Word} (h : s.pop = .ok (w, t)) : exec .ret s = .next (t.setPc w) := by
  simp [exec, execRet, h]

/-- A return that cannot pop raises. -/
theorem exec_ret_of_error {s : State} {f : StackFault} (h : s.pop = .error f) :
    exec .ret s = .next (s.raiseStackFault f) := by
  simp [exec, execRet, h]

/-- The registers after an instruction that writes one. -/
theorem regsSameBut_setReg (s : State) (x : Reg) (b : Byte) : RegsSameBut [x] s (s.setReg x b).advance := by
  intro r hr
  have : x ≠ r := fun e => hr (by simp [e])
  show (s.setReg x b).reg r = _
  simp [State.reg_setReg, this]

/-- The registers after an instruction that writes one and the flag. -/
theorem regsSameBut_setRegAndFlag (s : State) (x : Reg) (b : Byte) (c : Bool) :
    RegsSameBut [x, VF] s (s.setRegAndFlag x b c).advance := by
  intro r hr
  simp only [List.mem_cons, not_or] at hr
  show (s.setRegAndFlag x b c).reg r = _
  rw [State.reg_setRegAndFlag, if_neg (Ne.symm hr.2.1), if_neg (Ne.symm hr.1)]

/-- What no instruction touches, and what only 2nnn and 00EE do. -/
structure ExecKeeps (i : Instr) (s t : State) : Prop where
  stackOnlyByCallOrRet : (∃ nnn, i = .call nnn) ∨ i = .ret ∨ (t.fault = s.fault ∧ t.sp = s.sp ∧ t.stack = s.stack)
  life : t.life = s.life
  kill : t.kill = s.kill
  params : t.params = s.params
  key : t.key = s.key
  schedule : t.schedule = s.schedule
  turn : t.turn = s.turn
  memWf : s.memWf → t.memWf

/-- Every instruction answers a next state, which keeps these. -/
theorem exec_keeps (i : Instr) (s : State) : ∃ t, exec i s = .next t ∧ ExecKeeps i s t := by
  cases i
  case call nnn =>
    rcases s.push_cases (s.pc + 2) with ⟨h, e⟩ | ⟨_, _, e⟩ | ⟨_, _, e⟩ | ⟨_, _, e⟩
    · exact ⟨_, exec_call_of_push e, .inl ⟨_, rfl⟩, rfl, rfl, rfl, rfl, rfl, rfl, id⟩
    · exact ⟨_, exec_call_of_error e, .inl ⟨_, rfl⟩, rfl, rfl, rfl, rfl, rfl, rfl, id⟩
    · exact ⟨_, exec_call_of_push e, .inl ⟨_, rfl⟩, rfl, rfl, rfl, rfl, rfl, rfl, id⟩
    · exact ⟨_, exec_call_of_push e, .inl ⟨_, rfl⟩, rfl, rfl, rfl, rfl, rfl, rfl, id⟩
  case ret =>
    rcases s.pop_cases with ⟨h, e⟩ | ⟨_, _, e⟩ | ⟨_, _, e⟩ | ⟨_, _, e⟩
    · exact ⟨_, exec_ret_of_pop e, .inr (.inl rfl), rfl, rfl, rfl, rfl, rfl, rfl, id⟩
    · exact ⟨_, exec_ret_of_error e, .inr (.inl rfl), rfl, rfl, rfl, rfl, rfl, rfl, id⟩
    · exact ⟨_, exec_ret_of_pop e, .inr (.inl rfl), rfl, rfl, rfl, rfl, rfl, rfl, id⟩
    · exact ⟨_, exec_ret_of_pop e, .inr (.inl rfl), rfl, rfl, rfl, rfl, rfl, rfl, id⟩
  case ldB =>
    exact ⟨_, rfl, .inr (.inr ⟨rfl, rfl, rfl⟩), rfl, rfl, rfl, rfl, rfl, rfl, fun h =>
      State.writeByte_memWf (State.writeByte_memWf (State.writeByte_memWf h _ _) _ _) _ _⟩
  case ldMemVx x =>
    refine ⟨_, rfl, .inr (.inr ?_), ?_, ?_, ?_, ?_, ?_, ?_, fun h => State.dumpRegs_memWf h _⟩ <;> rw [State.dumpRegs_eq]
    · exact ⟨rfl, rfl, rfl⟩
    all_goals rfl
  case ldVxMem x =>
    refine ⟨_, rfl, ?_⟩
    rw [State.loadRegs_eq]
    exact ⟨.inr (.inr ⟨rfl, rfl, rfl⟩), rfl, rfl, rfl, rfl, rfl, rfl, id⟩
  case' seImm | sneImm | seReg | sneReg | sknp =>
    refine ⟨_, rfl, ?_⟩
    rw [State.skipIf_eq]
    exact ⟨.inr (.inr ⟨rfl, rfl, rfl⟩), rfl, rfl, rfl, rfl, rfl, rfl, id⟩
  all_goals exact ⟨_, rfl, .inr (.inr ⟨rfl, rfl, rfl⟩), rfl, rfl, rfl, rfl, rfl, rfl, id⟩

end Sys2Proof.Machine
end

