-- ==== Sys2Proof/Laws/PerInstr.lean ====
section
/-! SUPPORT. One statement about every instruction as syntax: its word has its row's fixed digits (spec/30_encoding.md R120).
One lemma per format of R112, and one per instruction. -/

namespace Sys2Proof.Laws.EncodeMatch

/-- The instruction's word matches its row of the opcode table. -/
def Statement (i : Instr) : Prop := i.row.holds (encode i) = true

/-- A word whose masked bits are its row's is that row's. -/
theorem of_masked {row : OpcodeRow} {w : Word} (h : ∀ k < 16, (w &&& row.mask).getLsbD k = row.pattern.getLsbD k) :
    row.holds w = true := by
  rw [OpcodeRow.holds, beq_iff_eq]
  exact BitVec.eq_of_getLsbD_eq h

/-- Format NNN. -/
theorem holds_nnn (op : Nibble) (nnn : Addr) : OpcodeRow.holds ⟨op ++ 0#12, 0xF000⟩ (op ++ nnn) = true := by
  refine of_masked fun k hk => ?_
  simp only [BitVec.getLsbD_and, BitVec.getLsbD_append]
  interval_cases k <;> simp

/-- Format XKK. -/
theorem holds_xkk (op : Nibble) (x : Reg) (kk : Byte) : OpcodeRow.holds ⟨op ++ 0#12, 0xF000⟩ (op ++ x ++ kk) = true := by
  refine of_masked fun k hk => ?_
  simp only [BitVec.getLsbD_and, BitVec.getLsbD_append]
  interval_cases k <;> simp

/-- Format XYN. -/
theorem holds_xyn (op : Nibble) (x y : Reg) (n : Nibble) : OpcodeRow.holds ⟨op ++ 0#12, 0xF000⟩ (op ++ x ++ y ++ n) = true := by
  refine of_masked fun k hk => ?_
  simp only [BitVec.getLsbD_and, BitVec.getLsbD_append]
  interval_cases k <;> simp

/-- Format XYS. -/
theorem holds_xys (op : Nibble) (x y : Reg) (sel : Nibble) : OpcodeRow.holds ⟨op ++ 0#8 ++ sel, 0xF00F⟩ (op ++ x ++ y ++ sel) = true := by
  refine of_masked fun k hk => ?_
  simp only [BitVec.getLsbD_and, BitVec.getLsbD_append]
  interval_cases k <;> simp

/-- Format XSS. -/
theorem holds_xss (op : Nibble) (x : Reg) (sel : Byte) : OpcodeRow.holds ⟨op ++ 0#4 ++ sel, 0xF0FF⟩ (op ++ x ++ sel) = true := by
  refine of_masked fun k hk => ?_
  simp only [BitVec.getLsbD_and, BitVec.getLsbD_append]
  interval_cases k <;> simp

theorem cls : Statement .cls := by unfold Statement; decide
theorem ret : Statement .ret := by unfold Statement; decide
theorem jp (nnn : Addr) : Statement (.jp nnn) := holds_nnn 1 nnn
theorem call (nnn : Addr) : Statement (.call nnn) := holds_nnn 2 nnn
theorem seImm (x : Reg) (kk : Byte) : Statement (.seImm x kk) := holds_xkk 3 x kk
theorem sneImm (x : Reg) (kk : Byte) : Statement (.sneImm x kk) := holds_xkk 4 x kk
theorem seReg (x y : Reg) : Statement (.seReg x y) := holds_xys 5 x y 0
theorem ldImm (x : Reg) (kk : Byte) : Statement (.ldImm x kk) := holds_xkk 6 x kk
theorem addImm (x : Reg) (kk : Byte) : Statement (.addImm x kk) := holds_xkk 7 x kk
theorem ldReg (x y : Reg) : Statement (.ldReg x y) := holds_xys 8 x y 0
theorem orReg (x y : Reg) : Statement (.orReg x y) := holds_xys 8 x y 1
theorem andReg (x y : Reg) : Statement (.andReg x y) := holds_xys 8 x y 2
theorem xorReg (x y : Reg) : Statement (.xorReg x y) := holds_xys 8 x y 3
theorem addReg (x y : Reg) : Statement (.addReg x y) := holds_xys 8 x y 4
theorem sub (x y : Reg) : Statement (.sub x y) := holds_xys 8 x y 5
theorem shr (x y : Reg) : Statement (.shr x y) := holds_xys 8 x y 6
theorem subn (x y : Reg) : Statement (.subn x y) := holds_xys 8 x y 7
theorem shl (x y : Reg) : Statement (.shl x y) := holds_xys 8 x y 0xE
theorem sneReg (x y : Reg) : Statement (.sneReg x y) := holds_xys 9 x y 0
theorem ldI (nnn : Addr) : Statement (.ldI nnn) := holds_nnn 0xA nnn
theorem rnd (x : Reg) (kk : Byte) : Statement (.rnd x kk) := holds_xkk 0xC x kk
theorem drw (x y : Reg) (n : Nibble) : Statement (.drw x y n) := holds_xyn 0xD x y n
theorem sknp (x : Reg) : Statement (.sknp x) := holds_xss 0xE x 0xA1
theorem ldVxDt (x : Reg) : Statement (.ldVxDt x) := holds_xss 0xF x 0x07
theorem ldDtVx (x : Reg) : Statement (.ldDtVx x) := holds_xss 0xF x 0x15
theorem ldStVx (x : Reg) : Statement (.ldStVx x) := holds_xss 0xF x 0x18
theorem addI (x : Reg) : Statement (.addI x) := holds_xss 0xF x 0x1E
theorem ldF (x : Reg) : Statement (.ldF x) := holds_xss 0xF x 0x29
theorem ldB (x : Reg) : Statement (.ldB x) := holds_xss 0xF x 0x33
theorem ldMemVx (x : Reg) : Statement (.ldMemVx x) := holds_xss 0xF x 0x55
theorem ldVxMem (x : Reg) : Statement (.ldVxMem x) := holds_xss 0xF x 0x65

end Sys2Proof.Laws.EncodeMatch
end

