-- ==== Sys2Proof/Laws/Step.lean ====
section
/-! SUPPORT. What a step and a cycle can do, said once. -/

namespace Sys2Proof.Machine

/-- What a cycle answers: a stopped session, a diagnostic, or the instruction's answer with the picture presented. -/
theorem State.cycle_cases (s : State) :
    (s.kill = true ∧ s.cycle = .next s.stopSession) ∨
    (s.kill = false ∧ ∃ e, decode s.fetchWord = .error e ∧
      s.cycle = .next (s.raiseDecodeError s.fetchWord).advance.render) ∨
    (s.kill = false ∧ ∃ i, decode s.fetchWord = .ok i ∧ s.cycle = presenting (exec i s)) := by
  cases hk : s.kill with
  | true => exact .inl ⟨rfl, by simp [State.cycle, hk]⟩
  | false =>
    right
    cases hd : decode s.fetchWord with
    | error e => exact .inl ⟨rfl, e, rfl, by simp [State.cycle, hk, hd, presenting]⟩
    | ok i => exact .inr ⟨rfl, i, rfl, by simp [State.cycle, hk, hd]⟩

/-- An enabled step is its agent's act. -/
theorem step_of_enabled {s : State} {a : AgentStep} (h : s.nextAgent = a) (he : a.enabled s.begin = true) :
    step s = s.begin.act a := by
  subst h
  exact if_pos he

/-- A step that is not enabled leaves the state it began from (R61). -/
theorem step_of_disabled {s : State} {a : AgentStep} (h : s.nextAgent = a) (he : a.enabled s.begin = false) :
    step s = .next s.begin := by
  subst h
  exact if_neg (by simp [he])

/-- What a step answers, by the agent whose turn it is: nothing where its step is not enabled (R61). -/
theorem step_cases (s : State) :
    (s.nextAgent.enabled s.begin = false ∧ step s = .next s.begin) ∨
    (s.nextAgent = .cycle ∧ s.life = .running ∧ (s.kill = true ∨ s.fault = .none) ∧ step s = s.begin.cycle) ∨
    (s.nextAgent = .tick ∧ s.life = .running ∧ step s = .next s.begin.tick) ∨
    (∃ k, s.nextAgent = .keyChange k ∧ s.life = .running ∧ step s = .next (s.begin.keyChange k)) ∨
    (s.nextAgent = .killCmd ∧ step s = .next s.begin.killCmd) ∨
    (∃ rom, s.nextAgent = .bootCmd rom ∧ step s = .next (s.begin.bootCmd rom)) := by
  cases he : s.nextAgent.enabled s.begin with
  | false => exact .inl ⟨rfl, step_of_disabled rfl he⟩
  | true =>
    have hs := step_of_enabled rfl he
    right
    cases ha : s.nextAgent with
    | cycle =>
      rw [ha] at he hs
      obtain ⟨hl, hk⟩ := of_decide_eq_true he
      exact .inl ⟨rfl, hl, hk, hs⟩
    | tick =>
      rw [ha] at he hs
      exact .inr (.inl ⟨rfl, of_decide_eq_true he, hs⟩)
    | keyChange k =>
      rw [ha] at he hs
      exact .inr (.inr (.inl ⟨k, rfl, of_decide_eq_true he, hs⟩))
    | killCmd => rw [ha] at hs; exact .inr (.inr (.inr (.inl ⟨rfl, hs⟩)))
    | bootCmd rom => rw [ha] at hs; exact .inr (.inr (.inr (.inr ⟨rom, rfl, hs⟩)))

/-- The next step, by what the state lists and, when it lists nothing, by CYCLE_SCHEDULE. -/
theorem State.nextAgent_cases (s : State) :
    (∃ a rest, s.schedule = a :: rest ∧ s.nextAgent = a) ∨
    (s.schedule = [] ∧ s.params.cycleSchedule = .free ∧ s.nextAgent = Config.agent s.turn) ∨
    (s.schedule = [] ∧ s.params.cycleSchedule = .cyclesOnly ∧ s.nextAgent = .cycle) := by
  unfold State.nextAgent
  cases s.schedule with
  | cons a rest => exact .inl ⟨a, rest, rfl, rfl⟩
  | nil => cases s.params.cycleSchedule <;> simp

/-- Every step takes one turn: its entry leaves the schedule, and the next step of the free order is the next one. -/
theorem step_takes_turn {s t : State} (h : step s = .next t) : t.schedule = s.schedule.tail ∧ t.turn = s.turn + 1 := by
  rcases step_cases s with ⟨_, e⟩ | ⟨_, _, _, e⟩ | ⟨_, _, e⟩ | ⟨k, _, _, e⟩ | ⟨_, e⟩ | ⟨rom, _, e⟩ <;> rw [e] at h
  · cases h; exact ⟨rfl, rfl⟩
  · rcases s.begin.cycle_cases with ⟨_, e⟩ | ⟨_, _, _, e⟩ | ⟨_, i, _, e⟩ <;> rw [e] at h
    · cases h; exact ⟨rfl, rfl⟩
    · cases h; exact ⟨rfl, rfl⟩
    · obtain ⟨u, hu, keeps⟩ := exec_keeps i s.begin
      rw [hu] at h
      cases h
      exact ⟨keeps.schedule, keeps.turn⟩
  · cases h; exact ⟨rfl, rfl⟩
  · cases h; exact ⟨rfl, rfl⟩
  · cases h; unfold State.killCmd; split_ifs <;> exact ⟨rfl, rfl⟩
  · cases h
    by_cases hl : rom.length ≤ 3584
    · rw [State.bootCmd_accepted _ hl]; exact ⟨rfl, rfl⟩
    · rw [State.bootCmd_refused _ (Nat.lt_of_not_le hl)]; simp only; split_ifs <;> exact ⟨rfl, rfl⟩

/-- The fetched word looks at PC and memory only. -/
theorem State.fetchWord_congr {s t : State} (hpc : t.pc = s.pc) (hm : t.mem = s.mem) (hp : t.params = s.params) :
    t.fetchWord = s.fetchWord := by
  simp [State.fetchWord, hpc, State.readByte_congr hm hp]

@[simp] theorem State.begin_fetchWord (s : State) : s.begin.fetchWord = s.fetchWord := rfl

end Sys2Proof.Machine
end

