-- ==== Sys2Proof/Tests/Slice0.lean ====
section
/-! SUPPORT. The model's own tests. Expected results are from spec/95_test_vectors.md (the vector's name stands in each
comment) or worked out by hand from the rule named; and, for every obligation that has hypotheses, a state and operands
that meet them. -/

open Sys2Proof Sys2Proof.Machine

namespace Sys2Proof.Tests

/-- The answer is a next state with the property. -/
def gives (a : Answer) (p : State → Bool) : Bool :=
  match a with
  | .next s => p s
  | .fault _ => false
  | .refused _ => false

/-- The state a next answer holds. -/
def after (a : Answer) : State :=
  match a with
  | .next s => s
  | .fault _ => State.reset
  | .refused _ => State.reset

/-- The reset state with some registers set. -/
def regs (values : List (Reg × Byte)) : State := values.foldl (fun s p => s.setReg p.1 p.2) State.reset

/-- s with some bytes stored. -/
def bytes (s : State) (cells : List (Nat × Byte)) : State := cells.foldl (fun s c => s.writeByte c.1 c.2) s

/-- s with one agent's step next. -/
def next (s : State) (a : AgentStep) : State := { s with schedule := [a] }

/-- One step that fetches and runs the word at PC of s has the property. -/
def runs (s : State) (w : Nat) (p : State → Bool) : Bool := gives (step (s.withFetchWord 16 w)) p

/-! ### Decoding: words written out from the layouts of spec/30_encoding.md R112 and R119 -/

theorem test_decode_fixed :
    decode 0b0000000011100000 = .ok .cls ∧ decode 0b0000000011101110 = .ok .ret := by decide

theorem test_decode_addresses :
    decode 0b0001101010111100 = .ok (.jp 0xABC) ∧ decode 0b0010001100000000 = .ok (.call 0x300) ∧
    decode 0b1010001100000000 = .ok (.ldI 0x300) := by decide

theorem test_decode_skips :
    decode 0b0011001101000010 = .ok (.seImm 3 0x42) ∧ decode 0b0100001101000010 = .ok (.sneImm 3 0x42) ∧
    decode 0b0101000100100000 = .ok (.seReg 1 2) ∧ decode 0b1001000100100000 = .ok (.sneReg 1 2) := by decide

theorem test_decode_immediates :
    decode 0b0110101001011100 = .ok (.ldImm 0xA 0x5C) ∧ decode 0b0111001100000101 = .ok (.addImm 3 0x05) ∧
    decode 0b1100001100001111 = .ok (.rnd 3 0x0F) := by decide

theorem test_decode_registers :
    decode 0b1000000000010000 = .ok (.ldReg 0 1) ∧ decode 0b1000000000010001 = .ok (.orReg 0 1) ∧
    decode 0b1000000000010010 = .ok (.andReg 0 1) ∧ decode 0b1000000000010011 = .ok (.xorReg 0 1) ∧
    decode 0b1000000000010100 = .ok (.addReg 0 1) ∧ decode 0b1000000000010101 = .ok (.sub 0 1) ∧
    decode 0b1000010001010110 = .ok (.shr 4 5) ∧ decode 0b1000000000010111 = .ok (.subn 0 1) ∧
    decode 0b1000010001011110 = .ok (.shl 4 5) := by decide

theorem test_decode_sprite_and_key :
    decode 0b1101000100100101 = .ok (.drw 1 2 5) ∧ decode 0b1110000110100001 = .ok (.sknp 1) := by decide

theorem test_decode_family_f :
    decode 0b1111001100000111 = .ok (.ldVxDt 3) ∧ decode 0b1111001100010101 = .ok (.ldDtVx 3) ∧
    decode 0b1111001000011000 = .ok (.ldStVx 2) ∧ decode 0b1111001000011110 = .ok (.addI 2) ∧
    decode 0b1111000000101001 = .ok (.ldF 0) ∧ decode 0b1111010100110011 = .ok (.ldB 5) ∧
    decode 0b1111001101010101 = .ok (.ldMemVx 3) ∧ decode 0b1111001001100101 = .ok (.ldVxMem 2) := by decide

/-- E1 to E12: words no row of R119 lists (R118, R121, R124). -/
theorem test_decode_unlisted :
    [0x0000, 0x0001, 0x00E1, 0x01E0, 0x00EF, 0x0123, 0x5121, 0x8008, 0x8009, 0x800D, 0x800F, 0x9121, 0xB123, 0xE19E,
      0xE1A2, 0xF10A, 0xF1FF, 0xF100].all (fun w : Word => decode w == .error (.unlisted w)) = true := by decide

/-- Bytes in memory order, the high byte first; one byte is no word (R80, R110). -/
theorem test_decode_bytes :
    decodeBytes [0x12, 0xF0, 0xAA] = .ok (.jp 0x2F0, [0xAA]) ∧ decodeBytes [0x12] = .error .truncated := by decide

/-- Words written by hand, encoded. -/
theorem test_encode :
    encode (.drw 1 2 5) = 0xD125 ∧ encode (.ldMemVx 0xF) = 0xFF55 ∧ encode (.jp 0xABC) = 0x1ABC ∧
    wordBytes 0x1ABC = [0x1A, 0xBC] ∧ decodeTableWord 16 0x8014 = some (.addReg 0 1) ∧
    decodeTableWord 16 0xB123 = none := by decide

/-! ### Well-formed lines (spec/30_encoding.md R125): one ill-formed line for each check -/

theorem test_wellFormed_smoke :
    AsmLine.wellFormed ⟨.ld, [.v 15, .num 255]⟩ = true ∧
    -- VF is the last register
    AsmLine.wellFormed ⟨.ld, [.v 16, .num 0]⟩ = false ∧ AsmLine.wellFormed ⟨.add, [.v 0, .v 16]⟩ = false ∧
    -- kk has eight bits, nnn twelve, n four
    AsmLine.wellFormed ⟨.se, [.v 0, .num 256]⟩ = false ∧ AsmLine.wellFormed ⟨.jp, [.num 4096]⟩ = false ∧
    AsmLine.wellFormed ⟨.drw, [.v 0, .v 1, .num 16]⟩ = false ∧
    -- no row has these kinds or this many operands
    AsmLine.wellFormed ⟨.ld, [.dt, .num 5]⟩ = false ∧ AsmLine.wellFormed ⟨.rnd, [.v 0, .v 1]⟩ = false ∧
    AsmLine.wellFormed ⟨.cls, [.v 0]⟩ = false ∧ AsmLine.wellFormed ⟨.jp, [.v 0, .num 0x200]⟩ = false := by decide

/-- Operand kinds choose the row of a shared mnemonic (R125). -/
theorem test_assemble :
    assemble ⟨.ld, [.i, .num 0x300]⟩ = some (.ldI 0x300) ∧ assemble ⟨.ld, [.v 2, .atI]⟩ = some (.ldVxMem 2) ∧
    assemble ⟨.ld, [.atI, .v 2]⟩ = some (.ldMemVx 2) ∧ assemble ⟨.add, [.i, .v 2]⟩ = some (.addI 2) := by decide

/-! ### One step of each instruction -/

/-- W1. -/
theorem test_jp : runs State.reset 0x1ABC (fun t => t.pc == 0xABC) = true := by decide

/-- CF6: an odd target is allowed. -/
theorem test_jp_odd : runs State.reset 0x1201 (fun t => t.pc == 0x201 && t.fault == .none) = true := by decide

/-- CF2: the last free entry. -/
theorem test_call : runs { State.reset with sp := 15 } 0x2300
    (fun t => t.stack[15] == 0x202 && t.sp.val == 16 && t.pc == 0x300) = true := by decide

/-- CF3. -/
theorem test_call_full : runs { State.reset with sp := 16 } 0x2300
    (fun t => t.fault == .stackOverflow && t.sp.val == 16 && t.pc == 0x200 && t.stack[15] == 0) = true := by decide

/-- CF5: the popped entry stays. -/
theorem test_ret : runs { State.reset with sp := 2, stack := (State.reset.stack.set 0 0x206).set 1 0x310 } 0x00EE
    (fun t => t.pc == 0x310 && t.sp.val == 1 && t.stack[1] == 0x310) = true := by decide

/-- CF4. -/
theorem test_ret_empty : runs State.reset 0x00EE
    (fun t => t.fault == .stackUnderflow && t.sp.val == 0 && t.pc == 0x200) = true := by decide

/-- CF7, CF8. -/
theorem test_seImm : runs (regs [(3, 0x42)]) 0x3342 (fun t => t.pc == 0x204) = true ∧
    runs (regs [(3, 0x41)]) 0x3342 (fun t => t.pc == 0x202) = true := by decide

/-- CF9, CF10. -/
theorem test_sneImm : runs (regs [(3, 0x42)]) 0x4342 (fun t => t.pc == 0x202) = true ∧
    runs State.reset 0x4342 (fun t => t.pc == 0x204) = true := by decide

/-- CF11, CF12. -/
theorem test_seReg : runs (regs [(1, 7), (2, 7)]) 0x5120 (fun t => t.pc == 0x204) = true ∧
    runs (regs [(1, 7), (2, 8)]) 0x5120 (fun t => t.pc == 0x202) = true := by decide

/-- CF14, CF15. -/
theorem test_sneReg : runs (regs [(1, 7), (2, 8)]) 0x9120 (fun t => t.pc == 0x204) = true ∧
    runs State.reset 0x9330 (fun t => t.pc == 0x202) = true := by decide

/-- CF17: PC is not reduced to 12 bits. -/
theorem test_skip_beyond_memory : runs { State.reset with pc := 0xFFE } 0x3000 (fun t => t.pc == 0x1002) = true := by
  decide

/-- A1. -/
theorem test_ldImm : runs State.reset 0x6A5C (fun t => t.reg 0xA == 0x5C && t.pc == 0x202) = true := by decide

/-- A3: no carry flag. -/
theorem test_addImm : runs (regs [(0, 0xFF)]) 0x7001 (fun t => t.reg 0 == 0 && t.reg VF == 0) = true := by decide

/-- A6. -/
theorem test_ldReg : runs (regs [(1, 0x42)]) 0x8010 (fun t => t.reg 0 == 0x42 && t.reg 1 == 0x42) = true := by decide

/-- A7: VF is not reset. -/
theorem test_orReg : runs (regs [(0, 0x0F), (1, 0xF0), (VF, 1)]) 0x8011
    (fun t => t.reg 0 == 0xFF && t.reg VF == 1) = true := by decide

/-- A8. -/
theorem test_andReg : runs (regs [(0, 0x3C), (1, 0x0F)]) 0x8012 (fun t => t.reg 0 == 0x0C) = true := by decide

/-- A9. -/
theorem test_xorReg : runs (regs [(0, 0xFF), (1, 0x0F)]) 0x8013 (fun t => t.reg 0 == 0xF0) = true := by decide

/-- A11. -/
theorem test_addReg : runs (regs [(0, 0xFF), (1, 1)]) 0x8014 (fun t => t.reg 0 == 0 && t.reg VF == 1) = true := by decide

/-- A13, A14: VF as the destination and as the source. -/
theorem test_addReg_vf : runs (regs [(VF, 0xFF), (1, 1)]) 0x8F14 (fun t => t.reg VF == 1) = true ∧
    runs (regs [(0, 1), (VF, 0xFF)]) 0x80F4 (fun t => t.reg 0 == 0 && t.reg VF == 1) = true := by decide

/-- A15: equal operands clear the flag. -/
theorem test_sub_equal : runs (regs [(0, 5), (1, 5), (VF, 9)]) 0x8015 (fun t => t.reg 0 == 0 && t.reg VF == 0) = true := by
  decide

/-- W2, the first row: Vx - Vy. -/
theorem test_sub : runs (regs [(0, 5), (1, 3)]) 0x8015 (fun t => t.reg 0 == 2 && t.reg VF == 1) = true := by decide

/-- A20: y is ignored. -/
theorem test_shr : runs (regs [(4, 0x80), (5, 0xFF)]) 0x8456 (fun t => t.reg 4 == 0x40 && t.reg VF == 0) = true := by decide

/-- A22: the flag wins over the result. -/
theorem test_shr_vf : runs (regs [(VF, 2)]) 0x8F06 (fun t => t.reg VF == 0) = true := by decide

/-- A23: Vy - Vx. -/
theorem test_subn : runs (regs [(0, 3), (1, 5)]) 0x8017 (fun t => t.reg 0 == 2 && t.reg VF == 1) = true := by decide

/-- W2, the row 0xFF, 0x01. -/
theorem test_subn_borrow : runs (regs [(0, 0xFF), (1, 1)]) 0x8017 (fun t => t.reg 0 == 2 && t.reg VF == 0) = true := by
  decide

/-- A26: y is ignored. -/
theorem test_shl : runs (regs [(4, 0x7F)]) 0x845E (fun t => t.reg 4 == 0xFE && t.reg VF == 0) = true := by decide

/-- A27. -/
theorem test_shl_vf : runs (regs [(VF, 0x81)]) 0x8F0E (fun t => t.reg VF == 1) = true := by decide

/-- A29: kk = 0 gives 0 whatever is drawn. -/
theorem test_rnd : ∃ t, exec (.rnd 3 0x00) (regs [(3, 0x99)]) = .next t ∧ t.reg 3 = 0 := by
  refine ⟨_, rfl, ?_⟩
  show (State.setReg _ 3 _).reg 3 = 0
  simp [State.reg_setReg]

/-- Cxkk takes one draw and moves on; the byte itself is free. -/
theorem test_rnd_draws : runs State.reset 0xC3FF (fun t => t.draws == 1 && t.pc == 0x202) = true := by decide

/-- M2. -/
theorem test_ldI : runs { State.reset with i := 0x1234 } 0xA000 (fun t => t.i == 0) = true := by decide

/-- M4: no flag, no 12-bit wrap. -/
theorem test_addI : runs { regs [(0, 1)] with i := 0xFFF } 0xF01E (fun t => t.i == 0x1000 && t.reg VF == 0) = true := by
  decide

/-- M5. -/
theorem test_addI_wraps : runs { regs [(0, 1)] with i := 0xFFFF } 0xF01E (fun t => t.i == 0) = true := by decide

/-- M10: the whole register times 5. -/
theorem test_ldF : runs (regs [(0, 0xFF)]) 0xF029 (fun t => t.i == 0x4FB) = true := by decide

/-- W4. -/
theorem test_ldB : runs { regs [(5, 157)] with i := 0x300 } 0xF533
    (fun t => t.readByte 0x300 == 1 && t.readByte 0x301 == 5 && t.readByte 0x302 == 7 && t.i == 0x300) = true := by decide

/-- M15: across the top of memory, into the font. -/
theorem test_ldB_wraps : runs { regs [(0, 123)] with i := 0xFFF } 0xF033
    (fun t => t.readByte 0xFFF == 1 && t.readByte 0 == 2 && t.readByte 1 == 3) = true := by decide

/-- M16. -/
theorem test_ldMemVx : runs { regs [(0, 0xA0), (1, 0xA1), (2, 0xA2), (3, 0xA3)] with i := 0xFFE } 0xF355
    (fun t => t.readByte 0xFFE == 0xA0 && t.readByte 0xFFF == 0xA1 && t.readByte 0 == 0xA2 && t.readByte 1 == 0xA3 &&
      t.i == 0xFFE) = true := by decide

/-- M17: x = 0 stores V0 only. -/
theorem test_ldMemVx_one : runs { regs [(0, 0x77), (1, 0x88)] with i := 0x400 } 0xF055
    (fun t => t.readByte 0x400 == 0x77 && t.readByte 0x401 == 0) = true := by decide

/-- M19: the registers above x are kept. -/
theorem test_ldVxMem : runs (bytes { regs [(3, 0x99)] with i := 0x400 } [(0x400, 1), (0x401, 2), (0x402, 3), (0x403, 4)]) 0xF265
    (fun t => t.reg 0 == 1 && t.reg 1 == 2 && t.reg 2 == 3 && t.reg 3 == 0x99 && t.i == 0x400) = true := by decide

/-- M6: I beyond memory is reduced, and the font is read. -/
theorem test_ldVxMem_reduces : runs { State.reset with i := 0x1000 } 0xF065 (fun t => t.reg 0 == 0xF0) = true := by decide

/-- D1, at one pixel that was 1. -/
theorem test_cls : runs { State.reset with fb := Framebuffer.setPixel blankFramebuffer 3 4 true } 0x00E0
    (fun t => !Framebuffer.pixel t.fb 3 4) = true := by decide

/-- W7 with byte 0x80 and with 0xFF: column 63, then column 0. -/
theorem test_drw_wraps : runs (bytes { regs [(0, 63), (1, 31)] with i := 0x300 } [(0x300, 0xFF)]) 0xD011
    (fun t => Framebuffer.pixel t.fb 63 31 && Framebuffer.pixel t.fb 6 31 && !Framebuffer.pixel t.fb 7 31 &&
      !Framebuffer.pixel t.fb 63 0 && t.reg VF == 0) = true := by decide

/-- D8: VF gives the column before it takes the flag. -/
theorem test_drw_vf : runs (bytes { State.reset with i := 0x300, fb := Framebuffer.setPixel blankFramebuffer 0 0 true }
    [(0x300, 0x80)]) 0xDF01 (fun t => !Framebuffer.pixel t.fb 0 0 && t.reg VF == 1) = true := by decide

/-- K1, K2. -/
theorem test_sknp : runs (regs [(1, 5)]) 0xE1A1 (fun t => t.pc == 0x204) = true ∧
    runs { regs [(1, 5)] with key := 0b100000 } 0xE1A1 (fun t => t.pc == 0x202) = true := by decide

/-- K3. -/
theorem test_sknp_mod : runs { regs [(1, 0x13)] with key := 0b1000 } 0xE1A1 (fun t => t.pc == 0x202) = true := by decide

/-- K4. -/
theorem test_ldVxDt : runs { State.reset with dt := 0x3C } 0xF307 (fun t => t.reg 3 == 0x3C) = true := by decide

/-- K5. -/
theorem test_ldDtVx : runs (regs [(3, 5)]) 0xF315 (fun t => t.dt == 5 && t.st == 0) = true := by decide

/-- K6. -/
theorem test_ldStVx : runs (regs [(2, 2)]) 0xF218 (fun t => t.st == 2 && t.dt == 0 && t.tone) = true := by decide

/-! ### The cycle, the agents and the lifecycle -/

/-- E13: the fetch at 0xFFF wraps to the font's first byte, 0xF0. -/
theorem test_fetch_wraps :
    gives (step (bytes { State.reset with pc := 0xFFF } [(0xFFF, 0x12)])) (fun t => t.pc == 0x2F0) = true := by decide

/-- E15: an empty program's first cycle. -/
theorem test_decode_error : gives (step State.reset)
    (fun t => t.diag == some ⟨0x200, 0⟩ && t.pc == 0x202 && t.frame == some t.fb && t.fault == .none) = true := by decide

/-- The reset state under the free order of steps. -/
def freeOrder : State := { State.reset with params := { State.reset.params with cycleSchedule := .free } }

/-- R313: with nothing listed, the first step is the free order's own, and after a listed tick the second step is. A placed word is
fetched all the same. -/
theorem test_free_order : freeOrder.nextAgent = Config.agent 0 ∧
    (after (step (next freeOrder .tick))).nextAgent = Config.agent 1 ∧
    runs freeOrder 0x6A5C (fun t => t.reg 0xA == 0x5C && t.schedule == [] && t.turn == 1) = true :=
  ⟨rfl, rfl, by decide⟩

/-- K7, K8, K9. -/
theorem test_tick : gives (step (next { State.reset with dt := 0, st := 1 } .tick))
    (fun t => t.dt == 0 && t.st == 0 && !t.tone) = true := by decide

/-- L7: ticks go on in a faulted engine. -/
theorem test_tick_faulted : gives (step (next { State.reset with fault := .stackUnderflow, dt := 4 } .tick))
    (fun t => t.dt == 3 && t.fault == .stackUnderflow) = true := by decide

/-- L6. -/
theorem test_kill_observed : gives (step { State.reset with kill := true, fault := .stackOverflow })
    (fun t => t.life == .stopped && !t.kill && t.fault == .stackOverflow && t.pc == 0x200) = true := by decide

/-- L4, L5. -/
theorem test_killCmd : gives (step (next State.reset .killCmd)) (fun t => t.kill && t.isRunning) = true ∧
    gives (step (next { State.reset with life := .stopped } .killCmd)) (fun t => !t.kill && t.isKilled) = true := by decide

/-- L8, W9. -/
theorem test_boot : gives (step (next { State.reset with fault := .stackOverflow, pc := 7, key := 1, kill := true }
    (.bootCmd [0x12, 0x00]))) (fun t => t.pc == 0x200 && t.fault == .none && t.key == 0 && !t.kill && t.isRunning &&
      t.readByte 0x200 == 0x12 && t.readByte 0x201 == 0 && t.readByte 0 == 0xF0) = true := by decide

/-- L2. -/
theorem test_boot_too_long : gives (step (next { State.reset with life := .stopped, pc := 7 }
    (.bootCmd (List.replicate 3585 0)))) (fun t => t.isKilled && t.loadError && t.pc == 7) = true := by
  rw [step_of_enabled (a := .bootCmd (List.replicate 3585 0)) rfl rfl, State.act, State.bootCmd,
    if_pos (by rw [List.length_replicate]; decide)]
  rfl

/-- L10: a tick of a stopped session changes nothing. -/
theorem test_stopped : gives (step (next { State.reset with life := .stopped, dt := 4 } .tick)) (fun t => t.dt == 4) = true := by
  decide

/-- The default FONT's first and last glyph (spec/20_memory.md R92). -/
theorem test_font :
    (List.range 5).map State.reset.readByte = [0xF0, 0x90, 0x90, 0x90, 0xF0] ∧
    (List.range' 75 5).map State.reset.readByte = [0xF0, 0x80, 0xF0, 0x80, 0x80] := by decide

/-! ### Witnesses: for each obligation with hypotheses, values that meet all of them -/

/-- The state after booting some bytes. -/
def booted (rom : List Byte) : State := State.reset.bootCmd rom

/-- A step that answers a next state answers the one `after` names. -/
theorem step_eq {s : State} (h : gives (step s) (fun _ => true) = true) : step s = .next (after (step s)) := by
  cases hs : step s <;> simp_all [gives, after]

/-- Canonical memory that lists the first and the last address. -/
def edgeMemory : State := bytes { regs [(0, 0x11), (15, 0xFF)] with i := 0xFFE } [(0, 1), (0xFFF, 2)]

theorem witness_edgeMemory : edgeMemory.memWf ∧ edgeMemory.mem = [(0, 1), (0xFFF, 2)] := by decide

theorem witness_EncodeOfDecode : decode 0xD12F = .ok (.drw 1 2 0xF) := by decide

theorem witness_DecodeFollowsOpcodeTable : decode 0x00EE = .ok .ret ∧ decode 0x00EF = .error (.unlisted 0x00EF) := by decide

theorem witness_CallPushesReturnAddress : ({ State.reset with sp := 15 }).sp.val < 16 := by decide

theorem witness_ReturnPopsIntoPc :
    0 < ({ State.reset with sp := 1 }).sp.val ∧ 0 < ({ State.reset with sp := 16 }).sp.val := by decide

theorem witness_StackBoundsRaiseFault : State.reset.params.stackPolicy = .fault ∧
    ({ State.reset with sp := 16 }).sp.val = 16 ∧ State.reset.sp.val = 0 := by decide

/-- The reset state under another policy. -/
def policy (p : StackPolicy) : State := { State.reset with params := { State.reset.params with stackPolicy := p } }

theorem witness_StackPoliciesWrapAndClamp :
    (policy .wrap).params.stackPolicy = .wrap ∧ ({ policy .wrap with sp := 16 }).sp.val = 16 ∧ (policy .wrap).sp.val = 0 ∧
    (policy .clamp).params.stackPolicy = .clamp ∧ ({ policy .clamp with sp := 16 }).sp.val = 16 ∧
    (policy .clamp).sp.val = 0 := by decide

theorem witness_flag_and_result_registers : (0 : Reg) ≠ VF ∧ (14 : Reg) ≠ VF := by decide

theorem witness_BcdDigitsAreStored :
    edgeMemory.memWf ∧ ∀ k < 3, 0x1002 % 4096 ≠ edgeMemory.indexed k % 4096 := by decide

theorem witness_RegistersAreDumped :
    edgeMemory.memWf ∧ (0 : Reg) ≤ 0 ∧ (15 : Reg) ≤ 15 ∧
    ∀ k : Reg, k ≤ 3 → 0x1003 % 4096 ≠ edgeMemory.indexed k.toNat % 4096 := by decide

theorem witness_RegistersAreLoaded : (15 : Reg) ≤ 15 ∧ (14 : Reg) < 15 ∧ (0 : Reg) ≤ 0 ∧ (0 : Reg) < 1 := by decide

/-- With x = 15, across the top of memory. -/
theorem witness_DumpLoadRoundTrip : edgeMemory.memWf ∧ ∃ s1, exec (.ldMemVx 15) edgeMemory = .next s1 ∧
    s1.i = edgeMemory.i ∧
    ∀ k : Reg, k ≤ 15 → s1.readByte (edgeMemory.indexed k.toNat) = s1.readByte (edgeMemory.indexed k.toNat) :=
  ⟨witness_edgeMemory.1, _, rfl, by decide, fun _ _ => rfl⟩

theorem witness_FetchSeesStoredBytes : ({ edgeMemory with pc := 0xFFFF }).memWf := witness_edgeMemory.1

/-- A pixel under a set bit of glyph 0 in the corner, and one under none. -/
theorem witness_DrawFlipsSpritePixels : SpriteSets State.reset 63 31 5 63 31 ∧ ¬SpriteSets State.reset 63 31 0 63 31 :=
  ⟨⟨0, 0, by decide, by decide, by decide, by decide, by decide⟩, fun ⟨_, _, h, _⟩ => absurd h (by omega)⟩

/-- Two draws in a row of 15 rows at the corner: the second from the state the first one leaves. -/
theorem witness_SpriteIsSelfInverse :
    let s := regs [(0, 63), (1, 31)]
    ∃ s1 u, exec (.drw 0 1 15) s = .next s1 ∧ exec (.drw 0 1 15) s1 = .next u ∧ s1.fb = s1.fb ∧ s1.i = s.i ∧
      (∀ r < (15 : Nibble).toNat, s1.readByte (s1.indexed r) = s.readByte (s.indexed r)) ∧ s1.reg 0 = s.reg 0 ∧
      s1.reg 1 = s.reg 1 := by
  have drw : ∀ s : State, ∃ t, exec (.drw 0 1 15) s = .next t ∧ t.i = s.i ∧ (∀ a, t.readByte a = s.readByte a) ∧
      t.reg 0 = s.reg 0 ∧ t.reg 1 = s.reg 1 := fun s => by
    refine ⟨_, rfl, rfl, fun _ => rfl, ?_, ?_⟩
    · show (State.setReg _ VF _).reg 0 = _
      simp [State.reg]
    · show (State.setReg _ VF _).reg 1 = _
      simp [State.reg]
  intro s
  obtain ⟨s1, h1, hi, hm, h0, h2⟩ := drw s
  obtain ⟨u, h3, -⟩ := drw s1
  exact ⟨s1, u, h1, h3, rfl, hi, fun r _ => by rw [hm, State.indexed, State.indexed, hi], h0, h2⟩

theorem witness_TickCountsDown : (next State.reset .tick).nextAgent = .tick ∧ (next State.reset .tick).life = .running := by
  decide

/-- Two ticks with a cycle that runs an instruction between them, in a session whose timers stand at 2 and 1. -/
def ticking : State :=
  { booted [0x60, 0x05] with dt := 2, st := 1, schedule := [.tick, .cycle, .tick] }

/-- The run of the two timer clauses, for a form of instruction that does not run in it. -/
theorem witness_TimersAfterTicks_run (writer : Reg → Instr) (h : ∀ x, writer x ≠ .ldImm 0 5) :
    ∃ t, TickRun writer 2 ticking t := by
  refine ⟨_, .tick 1 _ _ _ (.other 1 _ _ _ (.tick 0 _ _ _ (.here _) rfl rfl (step_eq (by decide))) ?_ ?_ ?_
    (step_eq (by decide))) (by decide) (by decide) (step_eq (by decide))⟩
  · intro g; exact absurd g (by decide)
  · intro rom g
    have : (after (step ticking)).nextAgent = .cycle := by decide
    rw [this] at g; cases g
  · rintro x ⟨-, g⟩
    have : decode (after (step ticking)).fetchWord = .ok (.ldImm 0 5) := by decide
    rw [this] at g
    exact h x (Except.ok.inj g).symm

theorem witness_TimersAfterTicks_runs :
    (∃ t, TickRun .ldDtVx 2 ticking t) ∧ ∃ t, TickRun .ldStVx 2 ticking t :=
  ⟨witness_TimersAfterTicks_run _ (by decide), witness_TimersAfterTicks_run _ (by decide)⟩

theorem witness_TimersAfterTicks : State.reset.life = .running ∧
    ({ State.reset with schedule := List.replicate 5 AgentStep.tick ++ [AgentStep.cycle] }).schedule =
      List.replicate 5 AgentStep.tick ++ [AgentStep.cycle] := by decide

/-- After booting a program that draws. -/
theorem witness_StepRunsDecodedInstruction : (booted [0xD0, 0x15]).Ready ∧ ∃ t,
    decode (booted [0xD0, 0x15]).fetchWord = .ok (.drw 0 1 5) ∧ exec (.drw 0 1 5) (booted [0xD0, 0x15]).begin = .next t :=
  ⟨⟨rfl, rfl, rfl, rfl⟩, _, by decide, rfl⟩

theorem witness_StepReportsDecodeError :
    State.reset.Ready ∧ decode State.reset.fetchWord = .error (.unlisted 0) := ⟨⟨rfl, rfl, rfl, rfl⟩, by decide⟩

/-- The two sides a stack instruction's clause has, and a skip. -/
theorem witness_NextPcOfEveryInstruction :
    (∃ t, exec (.call 0x300) State.reset = .next t ∧ t.fault = State.reset.fault ∧ State.reset.sp.val < 16) ∧
    (∃ t, exec .ret { State.reset with sp := 1 } = .next t ∧ t.fault = State.reset.fault ∧ 0 < (1 : Fin 17).val) ∧
    (∃ t, exec (.sknp 0) State.reset = .next t ∧ t.fault = State.reset.fault) :=
  ⟨⟨_, rfl, rfl, by decide⟩, ⟨_, rfl, rfl, by decide⟩, ⟨_, rfl, rfl⟩⟩

theorem witness_InstructionsIgnoreLifeAndKill : ∃ t, exec (.call 0x300) State.reset = .next t := ⟨_, rfl⟩

theorem witness_OnlySknpReadsKeys :
    (∃ t, exec (.ldB 3) State.reset = .next t) ∧ ∀ x, Instr.ldB 3 ≠ .sknp x := ⟨⟨_, rfl⟩, by decide⟩

/-- Each writer changes its element from some state. -/
theorem witness_EachElementHasItsWriters :
    (∃ t, exec (.ldI 0x300) State.reset = .next t ∧ t.i ≠ State.reset.i) ∧
    (∃ t, exec (.call 0x300) State.reset = .next t ∧ t.sp ≠ State.reset.sp) ∧
    (∃ t, exec (.ldDtVx 0) (regs [(0, 5)]) = .next t ∧ t.dt ≠ (regs [(0, 5)]).dt) ∧
    (∃ t, exec (.ldStVx 0) (regs [(0, 5)]) = .next t ∧ t.st ≠ (regs [(0, 5)]).st) ∧
    (∃ t, exec (.ldMemVx 0) (regs [(0, 5)]) = .next t ∧ t.mem ≠ (regs [(0, 5)]).mem) ∧
    (∃ t, exec (.rnd 0 0) State.reset = .next t ∧ t.draws ≠ State.reset.draws) :=
  ⟨⟨_, rfl, by decide⟩, ⟨_, rfl, by decide⟩, ⟨_, rfl, by decide⟩, ⟨_, rfl, by decide⟩, ⟨_, rfl, by decide⟩,
    ⟨_, rfl, by decide⟩⟩

/-- The clauses on the registers (the destination and the flag) and on FAULT. -/
theorem witness_EachElementHasItsWriters_registers :
    (∃ t, exec (.addReg 0 1) (regs [(0, 0xFF), (1, 2)]) = .next t ∧ t.reg 0 ≠ (regs [(0, 0xFF), (1, 2)]).reg 0 ∧
      t.reg VF ≠ (regs [(0, 0xFF), (1, 2)]).reg VF) ∧
    (∃ t, exec (.ldVxMem 15) State.reset = .next t ∧ t.reg 15 ≠ State.reset.reg 15) ∧
    (∃ t, exec .ret State.reset = .next t ∧ t.fault ≠ State.reset.fault) :=
  ⟨⟨_, rfl, by decide, by decide⟩, ⟨_, rfl, by decide⟩, ⟨_, rfl, by decide⟩⟩

/-- The clause on the picture. -/
theorem witness_EachElementHasItsWriters_fb :
    ∃ t, exec (.drw 0 0 1) State.reset = .next t ∧ t.fb ≠ State.reset.fb := by
  refine ⟨_, rfl, fun h => ?_⟩
  have := congrArg (fun f => Framebuffer.pixel f 0 0) h
  revert this; decide

theorem witness_OnlyStackBoundsSetFault :
    (∃ t, exec (.call 0) { State.reset with sp := 16 } = .next t ∧ t.fault ≠ State.reset.fault) ∧
    (∃ t, exec .ret State.reset = .next t ∧ t.fault ≠ State.reset.fault) :=
  ⟨⟨_, rfl, by decide⟩, ⟨_, rfl, by decide⟩⟩

theorem witness_AluTouchesOnlyRegisters :
    Instr.ldImm 0 1 ∈ [Instr.ldImm 0 1, .addImm 0 1] ∧ ({ State.reset with i := 7 }).v = State.reset.v ∧
    ({ State.reset with i := 7 }).draws = State.reset.draws := by decide

/-- A call at 0x200 to 0x204, one instruction there, and the return. -/
theorem witness_CallReturnsBehindItself :
    let s := booted [0x22, 0x04, 0x00, 0x00, 0x60, 0x05, 0x00, 0xEE]
    ∃ s1 t u, s.params.stackPolicy = .fault ∧ s.sp.val < 16 ∧ s.Ready ∧ decode s.fetchWord = .ok (.call 0x204) ∧
      step s = .next s1 ∧ StepsAbove (s.sp.val + 1) s1 t ∧ t.sp.val = s.sp.val + 1 ∧ t.Ready ∧
      decode t.fetchWord = .ok .ret ∧ step t = .next u := by
  exact ⟨_, _, _, rfl, by decide, ⟨rfl, rfl, rfl, rfl⟩, by decide, step_eq (by decide),
    .more _ _ _ (.here _ (by decide)) (step_eq (by decide)) (by decide), by decide, ⟨rfl, rfl, rfl, rfl⟩, by decide,
    step_eq (by decide)⟩

/-- A faulted engine: a call at PC with 16 live entries. -/
def overflowed : State := { bytes State.reset [(0x200, 0x22), (0x201, 0x00)] with sp := 16, fault := .stackOverflow }

theorem witness_StepKeepsInv : overflowed.Inv ∧ ∃ t, step overflowed = .next t :=
  ⟨⟨by decide, by decide, by decide, fun _ => rfl, fun _ => ⟨rfl, 0x200, by decide⟩, fun h => absurd h (by decide)⟩, _, rfl⟩

theorem witness_ParametersNeverChange : ∃ t, step (next (policy .clamp) (.bootCmd [1])) = .next t := ⟨_, rfl⟩

theorem witness_CycleObservesKill : ({ overflowed with kill := true }).nextAgent = .cycle ∧
    ({ overflowed with kill := true }).life = .running ∧ ({ overflowed with kill := true }).kill = true := by decide

theorem witness_FaultedEngineRunsNothing :
    overflowed.nextAgent = .cycle ∧ overflowed.fault ≠ .none ∧ overflowed.kill = false := by decide

theorem witness_StoppedSessionStaysAsItIs :
    ({ State.reset with life := .stopped }).life ≠ .running ∧ ({ State.reset with life := .stopped }).nextAgent = .cycle ∧
    (next State.reset .tick).nextAgent = .tick ∧ (next State.reset (.keyChange 1)).nextAgent = .keyChange 1 := by decide

theorem witness_KeyChangeCopiesKeys : (next overflowed (.keyChange 0x8001)).nextAgent = .keyChange 0x8001 ∧
    (next overflowed (.keyChange 0x8001)).life = .running := by decide

theorem witness_KillCommandOnlyRequests :
    (next State.reset .killCmd).nextAgent = .killCmd ∧ (next State.reset .killCmd).life = .running ∧
    (next { State.reset with life := .stopped } .killCmd).nextAgent = .killCmd ∧
    (next { State.reset with life := .stopped } .killCmd).life = .stopped := by decide

/-- The longest program and the empty one. -/
theorem witness_BootStartsProgram :
    (next State.reset (.bootCmd (List.replicate 3584 1))).nextAgent = .bootCmd (List.replicate 3584 1) ∧
    (List.replicate 3584 (1 : Byte)).length ≤ 3584 ∧
    (next State.reset (.bootCmd [])).nextAgent = .bootCmd [] ∧ ([] : List Byte).length ≤ 3584 :=
  ⟨rfl, by rw [List.length_replicate], rfl, by decide⟩

/-- Where the clauses on memory meet, for a program of two bytes (expected from spec/10_state.md R70): the font's last byte at 79,
zeros from 80 to 0x1FF, the program at 0x200 and 0x201, zeros from 0x202 to 0xFFF. -/
theorem witness_BootStartsProgram_boundaries :
    [79, 80, 0x1FF, 0x200, 0x201, 0x202, 0xFFF].map (booted [0x12, 0x34]).readByte =
      [0x80, 0, 0, 0x12, 0x34, 0, 0] := by decide

/-- The shortest program that is too long, in a running and in a stopped session. -/
theorem witness_BootRefusesLongProgram :
    (next State.reset (.bootCmd (List.replicate 3585 1))).nextAgent = .bootCmd (List.replicate 3585 1) ∧
    3584 < (List.replicate 3585 (1 : Byte)).length ∧ (next State.reset (.bootCmd [])).life = .running ∧
    (next { State.reset with life := .stopped } (.bootCmd [])).life = .stopped :=
  ⟨rfl, by rw [List.length_replicate]; decide, rfl, rfl⟩

theorem witness_TicksKeysAndKillsRedirectNothing : (next State.reset .killCmd).nextAgent = .killCmd ∧
    (∃ t, step (next State.reset .killCmd) = .next t) ∧ ∃ t, step (next State.reset .tick) = .next t :=
  ⟨rfl, ⟨_, rfl⟩, ⟨_, rfl⟩⟩

/-- An engine before its first boot, with contents no session leaves: a kill pending, a fault, PC in the font. -/
def unbooted : State := State.powerOn { overflowed with kill := true, pc := 7 }

/-- With no step listed, and with a kill command listed. -/
theorem witness_PowerOnWaitsForBoot :
    (∀ rom, unbooted.nextAgent ≠ .bootCmd rom) ∧ (∀ rom, (State.powerOn (next unbooted .killCmd)).nextAgent ≠ .bootCmd rom) := by
  constructor <;> intro rom h <;> cases h

/-- R71: at power-on LIFE is Stopped, a kill command and a cycle change nothing, and a boot starts a session. -/
theorem test_powerOn : unbooted.isKilled = true ∧
    gives (step unbooted) (fun t => t.isKilled && t.kill && t.pc == 7) = true ∧
    gives (step (next unbooted .killCmd)) (fun t => t.isKilled && t.pc == 7) = true ∧
    gives (step (next unbooted (.bootCmd [0x12, 0x00]))) (fun t => t.isRunning && !t.kill && t.fault == .none && t.pc == 0x200 &&
      t.readByte 0x200 == 0x12) = true := by decide

/-- Two engines with different contents and the same input. -/
theorem witness_FirstBootErasesPowerOnContents :
    let u := next unbooted (.bootCmd [0x12, 0x00])
    let w := next (regs [(3, 9)]) (.bootCmd [0x12, 0x00])
    w.params = u.params ∧ w.schedule = u.schedule ∧ w.turn = u.turn ∧ w.draws = u.draws ∧ u.nextAgent = .bootCmd [0x12, 0x00] ∧
      ([0x12, 0x00] : List Byte).length ≤ 3584 ∧ w.pc ≠ u.pc := by decide

/-- A jump to itself at 0x200. -/
theorem witness_ParkedEngineStaysParked : (booted [0x12, 0x00]).Parked 0x200 ∧ (booted [0x12, 0x00]).kill = false ∧
    (booted [0x12, 0x00]).nextAgent = .cycle := ⟨⟨rfl, rfl, rfl, by decide⟩, rfl, rfl⟩

end Sys2Proof.Tests
end

/-! PROOFS. Control flow (spec/40_control_flow.md). -/

namespace Sys2Proof.Machine

/-- A jump goes to its zero-extended address field (R152). -/
theorem exec_jp (nnn : Addr) (s : State) : exec (.jp nnn) s = .next (s.setPc (addrWord nnn)) := rfl

/-- Writing PC is within the frame of PC. -/
theorem onlyPc_setPc (s : State) (w : Word) : OnlyPc s (s.setPc w) := rfl

/-- Writing PC leaves every byte of memory. -/
theorem memSame_setPc (s : State) (w : Word) : MemSame s (s.setPc w) :=
  State.readByte_congr (s.setPc_mem w) (s.setPc_params w)

/-- Settles O8: a jump is one write of PC, which touches nothing else. -/
theorem jumpSetsPc : Obligations.JumpSetsPc := by
  intro nnn s
  refine ⟨s.setPc (addrWord nnn), exec_jp nnn s, ?target, onlyPc_setPc s _, memSame_setPc s _⟩
  case target => rw [State.setPc_pc, addrWord_toNat]

end Sys2Proof.Machine

/-! PROOFS. Registers (spec/41_alu.md): the loads, the addition without a flag and the bitwise instructions, each one write
of V[x] and the advance of PC. -/

namespace Sys2Proof.Machine

/-! ### The six instructions that write V[x] and no flag -/

/-- R185. -/
theorem exec_ldImm (x : Reg) (kk : Byte) (s : State) : exec (.ldImm x kk) s = .next (s.setReg x kk).advance := rfl

/-- R186. -/
theorem exec_addImm (x : Reg) (kk : Byte) (s : State) :
    exec (.addImm x kk) s = .next (s.setReg x (addMod (s.reg x) kk)).advance := rfl

/-- R190. -/
theorem exec_ldReg (x y : Reg) (s : State) : exec (.ldReg x y) s = .next (s.setReg x (s.reg y)).advance := rfl

/-- R191. -/
theorem exec_orReg (x y : Reg) (s : State) :
    exec (.orReg x y) s = .next (s.setReg x (s.reg x ||| s.reg y)).advance := rfl

/-- R192. -/
theorem exec_andReg (x y : Reg) (s : State) :
    exec (.andReg x y) s = .next (s.setReg x (s.reg x &&& s.reg y)).advance := rfl

/-- R193. -/
theorem exec_xorReg (x y : Reg) (s : State) :
    exec (.xorReg x y) s = .next (s.setReg x (s.reg x ^^^ s.reg y)).advance := rfl

/-! ### What such a write does -/

/-- The sum modulo 256 (R181). -/
theorem addMod_toNat (a b : Byte) : (addMod a b).toNat = (a.toNat + b.toNat) % 256 := BitVec.toNat_ofNat _ 8

/-- The advance of PC leaves every register. -/
theorem State.reg_advance (s : State) (x : Reg) : s.advance.reg x = s.reg x := State.reg_congr s.advance_v x

/-- Writing a register and advancing is within the frame of the registers. -/
theorem onlyRegs_setReg_advance (s : State) (x : Reg) (b : Byte) : OnlyRegs s (s.setReg x b).advance := rfl

/-- Writing a register and advancing leaves every byte of memory. -/
theorem memSame_setReg_advance (s : State) (x : Reg) (b : Byte) : MemSame s (s.setReg x b).advance :=
  State.readByte_congr rfl rfl

/-- An instruction that is one write of V[x] and the advance of PC: V[x] is the byte written, and all else is kept. -/
theorem exec_writes_only_reg {i : Instr} {s : State} {x : Reg} {b : Byte}
    (h : exec i s = .next (s.setReg x b).advance) :
    ∃ t, exec i s = .next t ∧ t.reg x = b ∧ RegsSameBut [x] s t ∧ OnlyRegs s t ∧ MemSame s t := by
  have written : (s.setReg x b).advance.reg x = b := by rw [State.reg_advance, State.reg_setReg, if_pos rfl]
  exact ⟨_, h, written, regsSameBut_setReg s x b, onlyRegs_setReg_advance s x b, memSame_setReg_advance s x b⟩

/-- Where the byte written is `op` of V[x] and V[y], and `op` acts on each bit as `bitOp`, every bit of V[x] becomes `bitOp` of theirs. -/
theorem exec_writes_bitwise {i : Instr} {s : State} {x y : Reg} (op : Byte → Byte → Byte) (bitOp : Bool → Bool → Bool)
    (bits : ∀ a b k, (op a b).getLsbD k = bitOp (a.getLsbD k) (b.getLsbD k))
    (h : exec i s = .next (s.setReg x (op (s.reg x) (s.reg y))).advance) :
    ∃ t, exec i s = .next t ∧ (∀ k < 8, (t.reg x).getLsbD k = bitOp ((s.reg x).getLsbD k) ((s.reg y).getLsbD k)) ∧
      RegsSameBut [x] s t ∧ OnlyRegs s t ∧ MemSame s t := by
  obtain ⟨t, ht, written, frame⟩ := exec_writes_only_reg h
  exact ⟨t, ht, fun k _ => by rw [written, bits], frame⟩

/-! ### The statements -/

/-- Settles O15: both loads are one write of V[x]. -/
theorem registerIsLoaded : Obligations.RegisterIsLoaded := fun x y kk s =>
  ⟨exec_writes_only_reg (exec_ldImm x kk s), exec_writes_only_reg (exec_ldReg x y s)⟩

/-- Settles O16: the addition is one write of V[x], of the sum modulo 256, so VF is kept unless it is V[x]. -/
theorem addImmediateHasNoFlag : Obligations.AddImmediateHasNoFlag := by
  intro x kk s
  obtain ⟨t, ht, written, frame⟩ := exec_writes_only_reg (exec_addImm x kk s)
  exact ⟨t, ht, by rw [written, addMod_toNat], frame⟩

/-- Settles O17: each of the three is one write of V[x], of a byte whose bits are the operation on the operands' bits. -/
theorem logicIsBitwise : Obligations.LogicIsBitwise := by
  intro x y s
  refine ⟨?or, ?and, ?xor⟩
  case or => exact exec_writes_bitwise (· ||| ·) or (fun _ _ _ => BitVec.getLsbD_or) (exec_orReg x y s)
  case and => exact exec_writes_bitwise (· &&& ·) and (fun _ _ _ => BitVec.getLsbD_and) (exec_andReg x y s)
  case xor => exact exec_writes_bitwise (· ^^^ ·) xor (fun _ _ _ => BitVec.getLsbD_xor) (exec_xorReg x y s)

end Sys2Proof.Machine

/-! PROOFS. The index (spec/42_index_memory.md): the instructions that write I, each one write of I and the advance of PC. -/

namespace Sys2Proof.Machine

/-- R221. -/
theorem exec_ldI (nnn : Addr) (s : State) : exec (.ldI nnn) s = .next (s.setI (addrWord nnn)).advance := rfl

/-- R232. -/
theorem exec_ldF (x : Reg) (s : State) :
    exec (.ldF x) s = .next (s.setI (BitVec.ofNat 16 ((s.reg x).toNat * 5))).advance := rfl

/-- Five times a byte is at most 1275, so as a word it does not wrap. -/
theorem ofNat_byte_mul_five_toNat (b : Byte) : (BitVec.ofNat 16 (b.toNat * 5)).toNat = b.toNat * 5 := by
  have small : b.toNat < 2 ^ 8 := b.isLt
  rw [BitVec.toNat_ofNat, Nat.mod_eq_of_lt (by omega)]

/-- Writing I and advancing is within the frame of I. -/
theorem onlyIndex_setI_advance (s : State) (w : Word) : OnlyIndex s (s.setI w).advance := rfl

/-- Writing I and advancing leaves every byte of memory. -/
theorem memSame_setI_advance (s : State) (w : Word) : MemSame s (s.setI w).advance :=
  State.readByte_congr rfl rfl

/-- An instruction that is one write of I and the advance of PC: I is the word written, and all else is kept. -/
theorem exec_writes_only_index {i : Instr} {s : State} {w : Word} (h : exec i s = .next (s.setI w).advance) :
    ∃ t, exec i s = .next t ∧ t.i.toNat = w.toNat ∧ OnlyIndex s t ∧ MemSame s t := by
  have written : (s.setI w).advance.i = w := by rw [State.advance_i, State.setI_i]
  exact ⟨_, h, congrArg BitVec.toNat written, onlyIndex_setI_advance s w, memSame_setI_advance s w⟩

/-- Settles O22: both loads are one write of I, of a word whose value is nnn, or V[x] times 5 without a wrap. -/
theorem indexIsLoaded : Obligations.IndexIsLoaded := by
  intro s
  refine ⟨fun nnn => ?address, fun x => ?glyph⟩
  case address =>
    rw [← addrWord_toNat]
    exact exec_writes_only_index (exec_ldI nnn s)
  case glyph =>
    rw [← ofNat_byte_mul_five_toNat]
    exact exec_writes_only_index (exec_ldF x s)

end Sys2Proof.Machine

/-! PROOFS. The display (spec/43_display.md): the clear, one write of the framebuffer and the advance of PC. -/

namespace Sys2Proof.Machine

/-- R251. -/
theorem exec_cls (s : State) : exec .cls s = .next { s with fb := blankFramebuffer }.advance := rfl

/-- Writing the framebuffer and advancing leaves every register, VF among them. -/
theorem regsSameBut_fb_advance (s : State) (f : Framebuffer) : RegsSameBut [] s { s with fb := f }.advance :=
  fun r _ => State.reg_advance { s with fb := f } r

/-- Writing the framebuffer and advancing leaves every byte of memory. -/
theorem memSame_fb_advance (s : State) (f : Framebuffer) : MemSame s { s with fb := f }.advance :=
  State.readByte_congr rfl rfl

/-- Settles O29: the clear is one write of the framebuffer, of the blank one. -/
theorem clearScreenBlanksEveryPixel : Obligations.ClearScreenBlanksEveryPixel := by
  intro s
  refine ⟨_, exec_cls s, ?pixels, regsSameBut_fb_advance s blankFramebuffer, ?frame, memSame_fb_advance s blankFramebuffer⟩
  case pixels =>
    intro px py
    rw [State.advance_fb, Framebuffer.pixel_blank]
  case frame => rfl

end Sys2Proof.Machine

/-! PROOFS. The timers (spec/44_keys_timers.md): the read of DT, one write of V[x], and the two writes of a timer, each with the
advance of PC. -/

namespace Sys2Proof.Machine

/-- R276. -/
theorem exec_ldVxDt (x : Reg) (s : State) : exec (.ldVxDt x) s = .next (s.setReg x s.dt).advance := rfl

/-- R277. -/
theorem exec_ldDtVx (x : Reg) (s : State) : exec (.ldDtVx x) s = .next { s with dt := s.reg x }.advance := rfl

/-- R278. -/
theorem exec_ldStVx (x : Reg) (s : State) : exec (.ldStVx x) s = .next { s with st := s.reg x }.advance := rfl

/-- The tone sounds exactly while ST is not 0 (R65). -/
theorem State.tone_iff (s : State) : s.tone = true ↔ s.st ≠ 0 := bne_iff_ne

/-- Writing DT and advancing leaves every byte of memory. -/
theorem memSame_dt_advance (s : State) (b : Byte) : MemSame s { s with dt := b }.advance :=
  State.readByte_congr rfl rfl

/-- Writing ST and advancing leaves every byte of memory. -/
theorem memSame_st_advance (s : State) (b : Byte) : MemSame s { s with st := b }.advance :=
  State.readByte_congr rfl rfl

/-- Settles O32: the read of DT is one write of V[x]. -/
theorem readDelayTimer : Obligations.ReadDelayTimer := fun x s => exec_writes_only_reg (exec_ldVxDt x s)

/-- Settles O33: each is one write of its timer, and the tone is read off the ST written. -/
theorem writeTimers : Obligations.WriteTimers := by
  intro x s
  refine ⟨⟨_, exec_ldDtVx x s, State.advance_dt _, ?delayFrame, memSame_dt_advance s (s.reg x)⟩,
    ⟨_, exec_ldStVx x s, State.advance_st _, ?tone, ?soundFrame, memSame_st_advance s (s.reg x)⟩⟩
  case delayFrame => rfl
  case tone => rw [State.tone_iff, State.advance_st]
  case soundFrame => rfl

end Sys2Proof.Machine

/-! PROOFS. Encoding (spec/30_encoding.md): the fields of a word laid out by one of the formats of R112, a word put together
again from its fields, and from these the two directions of decode and encode, the opcode table and the written form. -/

namespace Sys2Proof

/-! ### The fields of a word of each format (R111, R112) -/

section formats
variable (op : Nibble) (x y : Reg) (n : Nibble) (kk : Byte) (nnn : Addr)

@[simp] theorem fieldsOf_nnn_op : (fieldsOf (op ++ nnn)).op = op := BitVec.extractLsb'_append_eq_left

@[simp] theorem fieldsOf_nnn_nnn : (fieldsOf (op ++ nnn)).nnn = nnn := BitVec.extractLsb'_append_eq_right

@[simp] theorem fieldsOf_xkk_op : (fieldsOf (op ++ x ++ kk)).op = op := by
  show BitVec.extractLsb' 12 4 (op ++ x ++ kk) = op
  rw [BitVec.extractLsb'_append_eq_of_le (by decide)]
  exact BitVec.extractLsb'_append_eq_left

@[simp] theorem fieldsOf_xkk_x : (fieldsOf (op ++ x ++ kk)).x = x := by
  show BitVec.extractLsb' 8 4 (op ++ x ++ kk) = x
  rw [BitVec.extractLsb'_append_eq_of_le (by decide)]
  exact BitVec.extractLsb'_append_eq_right

@[simp] theorem fieldsOf_xkk_kk : (fieldsOf (op ++ x ++ kk)).kk = kk := BitVec.extractLsb'_append_eq_right

/-- Above its last nibble, a word of the format XYN holds what the format without it holds. -/
theorem extractLsb'_append_nibble (w : BitVec 12) (k : Nat) (hk : 4 ≤ k) :
    BitVec.extractLsb' k 4 (w ++ n) = BitVec.extractLsb' (k - 4) 4 w := BitVec.extractLsb'_append_eq_of_le hk

@[simp] theorem fieldsOf_xyn_op : (fieldsOf (op ++ x ++ y ++ n)).op = op := by
  show BitVec.extractLsb' 12 4 (op ++ x ++ y ++ n) = op
  rw [extractLsb'_append_nibble n _ 12 (by decide), BitVec.extractLsb'_append_eq_of_le (by decide)]
  exact BitVec.extractLsb'_append_eq_left

@[simp] theorem fieldsOf_xyn_x : (fieldsOf (op ++ x ++ y ++ n)).x = x := by
  show BitVec.extractLsb' 8 4 (op ++ x ++ y ++ n) = x
  rw [extractLsb'_append_nibble n _ 8 (by decide), BitVec.extractLsb'_append_eq_of_le (by decide)]
  exact BitVec.extractLsb'_append_eq_right

@[simp] theorem fieldsOf_xyn_y : (fieldsOf (op ++ x ++ y ++ n)).y = y := by
  show BitVec.extractLsb' 4 4 (op ++ x ++ y ++ n) = y
  rw [extractLsb'_append_nibble n _ 4 (by decide)]
  exact BitVec.extractLsb'_append_eq_right

@[simp] theorem fieldsOf_xyn_n : (fieldsOf (op ++ x ++ y ++ n)).n = n := BitVec.extractLsb'_append_eq_right

end formats

/-- The decoder reads the operands back from the fields that the formats put them in (R112, R115). -/
theorem decode_encode (i : Instr) : decode (encode i) = .ok i := by
  cases i
  case' cls | ret => rfl
  all_goals simp [encode, decode]

/-! ### A word put together from its fields -/

theorem append_nnn (w : Word) : (fieldsOf w).op ++ (fieldsOf w).nnn = w := by
  rw [fieldsOf, BitVec.extractLsb'_append_extractLsb'_eq_extractLsb' (by decide)]
  exact BitVec.extractLsb'_eq_self

theorem append_x_kk (w : Word) : (fieldsOf w).op ++ (fieldsOf w).x ++ (fieldsOf w).kk = w := by
  rw [fieldsOf, BitVec.extractLsb'_append_extractLsb'_eq_extractLsb' (by decide),
    BitVec.extractLsb'_append_extractLsb'_eq_extractLsb' (by decide)]
  exact BitVec.extractLsb'_eq_self

theorem append_x_y_n (w : Word) : (fieldsOf w).op ++ (fieldsOf w).x ++ (fieldsOf w).y ++ (fieldsOf w).n = w := by
  rw [fieldsOf, BitVec.extractLsb'_append_extractLsb'_eq_extractLsb' (by decide),
    BitVec.extractLsb'_append_extractLsb'_eq_extractLsb' (by decide),
    BitVec.extractLsb'_append_extractLsb'_eq_extractLsb' (by decide)]
  exact BitVec.extractLsb'_eq_self

section formats
variable {w : Word} {op : Nibble}

theorem word_of_nnn (hop : (fieldsOf w).op = op) : op ++ (fieldsOf w).nnn = w := hop ▸ append_nnn w

theorem word_of_xkk (hop : (fieldsOf w).op = op) : op ++ (fieldsOf w).x ++ (fieldsOf w).kk = w := hop ▸ append_x_kk w

theorem word_of_xyn (hop : (fieldsOf w).op = op) :
    op ++ (fieldsOf w).x ++ (fieldsOf w).y ++ (fieldsOf w).n = w := hop ▸ append_x_y_n w

theorem word_of_xys {sel : Nibble} (hop : (fieldsOf w).op = op) (hn : (fieldsOf w).n = sel) :
    op ++ (fieldsOf w).x ++ (fieldsOf w).y ++ sel = w := hn ▸ word_of_xyn hop

theorem word_of_xss {sel : Byte} (hop : (fieldsOf w).op = op) (hkk : (fieldsOf w).kk = sel) :
    op ++ (fieldsOf w).x ++ sel = w := hkk ▸ word_of_xkk hop

end formats

/-- A decoded word is the word of its instruction: each digit is a field it keeps or one the decoder tested (R121). -/
theorem encode_of_decode {w : Word} {i : Instr} (h : decode w = .ok i) : encode i = w := by
  simp only [decode] at h
  -- one goal per top nibble, in the order 0 to F
  split at h
  · split_ifs at h with cls ret <;> cases h
    · exact cls.symm
    · exact ret.symm
  · cases h; exact word_of_nnn ‹_›
  · cases h; exact word_of_nnn ‹_›
  · cases h; exact word_of_xkk ‹_›
  · cases h; exact word_of_xkk ‹_›
  · split_ifs at h with sel
    cases h
    exact word_of_xys ‹_› sel
  · cases h; exact word_of_xkk ‹_›
  · cases h; exact word_of_xkk ‹_›
  · split at h <;> cases h <;> exact word_of_xys ‹_› ‹_›
  · split_ifs at h with sel
    cases h
    exact word_of_xys ‹_› sel
  · cases h; exact word_of_nnn ‹_›
  · cases h
  · cases h; exact word_of_xkk ‹_›
  · cases h; exact word_of_xyn ‹_›
  · split_ifs at h with sel
    cases h
    exact word_of_xss ‹_› sel
  · have hop : (fieldsOf w).op = 0xF#4 := by simp only [imp_false] at *; bv_omega
    split at h <;> cases h <;> exact word_of_xss hop ‹_›

/-! ### The rows of the opcode table (R120) -/

theorem OpcodeRow.holds_iff (row : OpcodeRow) (w : Word) : row.holds w = true ↔ w &&& row.mask = row.pattern := beq_iff_eq

/-- The word of an instruction is of its row. -/
theorem row_holds_encode : ∀ i : Instr, i.row.holds (encode i) = true
  | .cls => Laws.EncodeMatch.cls
  | .ret => Laws.EncodeMatch.ret
  | .jp nnn => Laws.EncodeMatch.jp nnn
  | .call nnn => Laws.EncodeMatch.call nnn
  | .seImm x kk => Laws.EncodeMatch.seImm x kk
  | .sneImm x kk => Laws.EncodeMatch.sneImm x kk
  | .seReg x y => Laws.EncodeMatch.seReg x y
  | .ldImm x kk => Laws.EncodeMatch.ldImm x kk
  | .addImm x kk => Laws.EncodeMatch.addImm x kk
  | .ldReg x y => Laws.EncodeMatch.ldReg x y
  | .orReg x y => Laws.EncodeMatch.orReg x y
  | .andReg x y => Laws.EncodeMatch.andReg x y
  | .xorReg x y => Laws.EncodeMatch.xorReg x y
  | .addReg x y => Laws.EncodeMatch.addReg x y
  | .sub x y => Laws.EncodeMatch.sub x y
  | .shr x y => Laws.EncodeMatch.shr x y
  | .subn x y => Laws.EncodeMatch.subn x y
  | .shl x y => Laws.EncodeMatch.shl x y
  | .sneReg x y => Laws.EncodeMatch.sneReg x y
  | .ldI nnn => Laws.EncodeMatch.ldI nnn
  | .rnd x kk => Laws.EncodeMatch.rnd x kk
  | .drw x y n => Laws.EncodeMatch.drw x y n
  | .sknp x => Laws.EncodeMatch.sknp x
  | .ldVxDt x => Laws.EncodeMatch.ldVxDt x
  | .ldDtVx x => Laws.EncodeMatch.ldDtVx x
  | .ldStVx x => Laws.EncodeMatch.ldStVx x
  | .addI x => Laws.EncodeMatch.addI x
  | .ldF x => Laws.EncodeMatch.ldF x
  | .ldB x => Laws.EncodeMatch.ldB x
  | .ldMemVx x => Laws.EncodeMatch.ldMemVx x
  | .ldVxMem x => Laws.EncodeMatch.ldVxMem x

section holds
variable {pattern mask w : Word} (h : OpcodeRow.holds ⟨pattern, mask⟩ w = true)
include h

theorem and_eq_of_holds : w &&& mask = pattern := (OpcodeRow.holds_iff ⟨pattern, mask⟩ w).mp h

/-- A word of a row that fixes every digit is the row's pattern. -/
theorem eq_of_holds (full : mask = BitVec.allOnes 16) : w = pattern := by
  rw [← and_eq_of_holds h, full, BitVec.and_allOnes]

/-- A word of a row that fixes the top digit has the pattern's. -/
theorem op_of_holds (full : (fieldsOf mask).op = BitVec.allOnes 4) : (fieldsOf w).op = (fieldsOf pattern).op := by
  have masked : (fieldsOf (w &&& mask)).op = (fieldsOf w).op &&& (fieldsOf mask).op := BitVec.extractLsb'_and ..
  rw [← and_eq_of_holds h, masked, full, BitVec.and_allOnes]

/-- A word of a row that fixes the last digit has the pattern's. -/
theorem n_of_holds (full : (fieldsOf mask).n = BitVec.allOnes 4) : (fieldsOf w).n = (fieldsOf pattern).n := by
  have masked : (fieldsOf (w &&& mask)).n = (fieldsOf w).n &&& (fieldsOf mask).n := BitVec.extractLsb'_and ..
  rw [← and_eq_of_holds h, masked, full, BitVec.and_allOnes]

/-- A word of a row that fixes the last two digits has the pattern's. -/
theorem kk_of_holds (full : (fieldsOf mask).kk = BitVec.allOnes 8) : (fieldsOf w).kk = (fieldsOf pattern).kk := by
  have masked : (fieldsOf (w &&& mask)).kk = (fieldsOf w).kk &&& (fieldsOf mask).kk := BitVec.extractLsb'_and ..
  rw [← and_eq_of_holds h, masked, full, BitVec.and_allOnes]

end holds

section formats
variable {op : Nibble} {w : Word}

theorem word_of_holds_nnn (h : OpcodeRow.holds ⟨op ++ 0#12, 0xF000#16⟩ w = true) : op ++ (fieldsOf w).nnn = w :=
  word_of_nnn ((op_of_holds h rfl).trans (fieldsOf_nnn_op op _))

theorem word_of_holds_xkk (h : OpcodeRow.holds ⟨op ++ 0#12, 0xF000#16⟩ w = true) :
    op ++ (fieldsOf w).x ++ (fieldsOf w).kk = w :=
  word_of_xkk ((op_of_holds h rfl).trans (fieldsOf_nnn_op op _))

theorem word_of_holds_xyn (h : OpcodeRow.holds ⟨op ++ 0#12, 0xF000#16⟩ w = true) :
    op ++ (fieldsOf w).x ++ (fieldsOf w).y ++ (fieldsOf w).n = w :=
  word_of_xyn ((op_of_holds h rfl).trans (fieldsOf_nnn_op op _))

theorem word_of_holds_xys {sel : Nibble} (h : OpcodeRow.holds ⟨op ++ 0#4 ++ 0#4 ++ sel, 0xF00F#16⟩ w = true) :
    op ++ (fieldsOf w).x ++ (fieldsOf w).y ++ sel = w :=
  word_of_xys ((op_of_holds h rfl).trans (fieldsOf_xyn_op ..)) ((n_of_holds h rfl).trans (fieldsOf_xyn_n ..))

theorem word_of_holds_xss {sel : Byte} (h : OpcodeRow.holds ⟨op ++ 0#4 ++ sel, 0xF0FF#16⟩ w = true) :
    op ++ (fieldsOf w).x ++ sel = w :=
  word_of_xss ((op_of_holds h rfl).trans (fieldsOf_xkk_op ..)) ((kk_of_holds h rfl).trans (fieldsOf_xkk_kk ..))

end formats

/-- A word of an instruction's row is the word of an instruction. -/
theorem exists_encode_of_row_holds {w : Word} : ∀ i : Instr, i.row.holds w = true → ∃ j, encode j = w
  | .cls, h => ⟨.cls, (eq_of_holds h rfl).symm⟩
  | .ret, h => ⟨.ret, (eq_of_holds h rfl).symm⟩
  | .jp _, h => ⟨.jp _, word_of_holds_nnn h⟩
  | .call _, h => ⟨.call _, word_of_holds_nnn h⟩
  | .seImm _ _, h => ⟨.seImm _ _, word_of_holds_xkk h⟩
  | .sneImm _ _, h => ⟨.sneImm _ _, word_of_holds_xkk h⟩
  | .seReg _ _, h => ⟨.seReg _ _, word_of_holds_xys h⟩
  | .ldImm _ _, h => ⟨.ldImm _ _, word_of_holds_xkk h⟩
  | .addImm _ _, h => ⟨.addImm _ _, word_of_holds_xkk h⟩
  | .ldReg _ _, h => ⟨.ldReg _ _, word_of_holds_xys h⟩
  | .orReg _ _, h => ⟨.orReg _ _, word_of_holds_xys h⟩
  | .andReg _ _, h => ⟨.andReg _ _, word_of_holds_xys h⟩
  | .xorReg _ _, h => ⟨.xorReg _ _, word_of_holds_xys h⟩
  | .addReg _ _, h => ⟨.addReg _ _, word_of_holds_xys h⟩
  | .sub _ _, h => ⟨.sub _ _, word_of_holds_xys h⟩
  | .shr _ _, h => ⟨.shr _ _, word_of_holds_xys h⟩
  | .subn _ _, h => ⟨.subn _ _, word_of_holds_xys h⟩
  | .shl _ _, h => ⟨.shl _ _, word_of_holds_xys h⟩
  | .sneReg _ _, h => ⟨.sneReg _ _, word_of_holds_xys h⟩
  | .ldI _, h => ⟨.ldI _, word_of_holds_nnn h⟩
  | .rnd _ _, h => ⟨.rnd _ _, word_of_holds_xkk h⟩
  | .drw _ _ _, h => ⟨.drw _ _ _, word_of_holds_xyn h⟩
  | .sknp _, h => ⟨.sknp _, word_of_holds_xss h⟩
  | .ldVxDt _, h => ⟨.ldVxDt _, word_of_holds_xss h⟩
  | .ldDtVx _, h => ⟨.ldDtVx _, word_of_holds_xss h⟩
  | .ldStVx _, h => ⟨.ldStVx _, word_of_holds_xss h⟩
  | .addI _, h => ⟨.addI _, word_of_holds_xss h⟩
  | .ldF _, h => ⟨.ldF _, word_of_holds_xss h⟩
  | .ldB _, h => ⟨.ldB _, word_of_holds_xss h⟩
  | .ldMemVx _, h => ⟨.ldMemVx _, word_of_holds_xss h⟩
  | .ldVxMem _, h => ⟨.ldVxMem _, word_of_holds_xss h⟩

/-- Every instruction's row stands in the table. -/
theorem row_mem_opcodeRows (i : Instr) : i.row ∈ opcodeRows := by
  cases i <;> simp [Instr.row, opcodeRows]

/-- Every row of the table is an instruction's: its pattern, as a word, is one. -/
theorem exists_row_eq {row : OpcodeRow} (hr : row ∈ opcodeRows) : ∃ i : Instr, i.row = row := by
  have patterns : ∀ row ∈ opcodeRows, (decode row.pattern).toOption.map Instr.row = some row := by decide
  obtain ⟨i, -, hi⟩ := Option.map_eq_some_iff.mp (patterns row hr)
  exact ⟨i, hi⟩

/-- A word that decodes is of its instruction's row. -/
theorem row_holds_of_decode {w : Word} {i : Instr} (h : decode w = .ok i) : i.row.holds w = true :=
  encode_of_decode h ▸ row_holds_encode i

/-- A word of a row of the table decodes. -/
theorem exists_decode_of_holds {row : OpcodeRow} (hr : row ∈ opcodeRows) {w : Word} (h : row.holds w = true) :
    ∃ i, decode w = .ok i := by
  obtain ⟨i, rfl⟩ := exists_row_eq hr
  obtain ⟨j, rfl⟩ := exists_encode_of_row_holds i h
  exact ⟨j, decode_encode j⟩

/-- The masks of two rows have a bit in common at which their patterns differ. -/
def OpcodeRow.Apart (p q : OpcodeRow) : Prop := p.pattern &&& q.mask ≠ q.pattern &&& p.mask

/-- No word is of both of two such rows: under both masks it would have both patterns' bits. -/
theorem OpcodeRow.Apart.not_both {p q : OpcodeRow} (apart : p.Apart q) (w : Word) :
    ¬(p.holds w = true ∧ q.holds w = true) := by
  rw [OpcodeRow.holds_iff, OpcodeRow.holds_iff]
  rintro ⟨hp, hq⟩
  apply apart
  rw [← hp, ← hq, BitVec.and_assoc, BitVec.and_assoc, BitVec.and_comm p.mask]

/-- Any two rows of the table are told apart so. -/
theorem opcodeRows_apart : opcodeRows.Pairwise OpcodeRow.Apart := by
  unfold OpcodeRow.Apart
  decide

/-! ### The written form (R125): a number that fits its field is read back -/

@[simp] theorem reg?_toNat (x : Reg) : reg? x.toNat = some x := by simp [reg?, x.isLt]

@[simp] theorem nibble?_toNat (n : Nibble) : nibble? n.toNat = some n := by simp [nibble?, n.isLt]

@[simp] theorem byte?_toNat (kk : Byte) : byte? kk.toNat = some kk := by simp [byte?, kk.isLt]

@[simp] theorem addr?_toNat (nnn : Addr) : addr? nnn.toNat = some nnn := by simp [addr?, nnn.isLt]

/-- The line that writes an instruction is read back. -/
theorem assemble_toLine (i : Instr) : assemble i.toLine = some i := by
  cases i <;> simp [assemble, Instr.toLine]

/-! ### The statements -/

/-- Settles O1: each field of a word laid out by a format is the operand that was put there, and the decoder reads those
fields. -/
theorem decodeOfEncode : Obligations.DecodeOfEncode := decode_encode

/-- Settles O2: a decoded word is put together again from its fields. -/
theorem encodeOfDecode : Obligations.EncodeOfDecode := fun _ _ => encode_of_decode

/-- Settles O3: a decoded word is the word of its instruction, and so of its row; a word of a row is the word of an instruction,
and so decodes. -/
theorem decodeFollowsOpcodeTable : Obligations.DecodeFollowsOpcodeTable := by
  intro w
  refine ⟨fun i h => ⟨row_mem_opcodeRows i, row_holds_of_decode h⟩, ?no_row, ?error⟩
  case no_row =>
    rintro ⟨e, he⟩ row hr
    by_contra holds
    obtain ⟨i, hi⟩ := exists_decode_of_holds hr (Bool.eq_true_of_not_eq_false holds)
    rw [he] at hi
    cases hi
  case error =>
    intro none
    cases h : decode w with
    | error e => exact ⟨e, rfl⟩
    | ok i =>
      have holds := row_holds_of_decode h
      rw [none _ (row_mem_opcodeRows i)] at holds
      cases holds

/-- Settles O4: any two rows are told apart by a bit that both masks fix. -/
theorem opcodeRowsAreDisjoint : Obligations.OpcodeRowsAreDisjoint :=
  ⟨rfl, opcodeRows_apart.imp OpcodeRow.Apart.not_both⟩

/-- Settles O5: the nineteen words are decoded. -/
theorem sampleWordsDecode : Obligations.SampleWordsDecode := by
  unfold Obligations.SampleWordsDecode
  decide

/-- Settles O6: every operand fits the field it was taken from, so the line is read back. -/
theorem writtenLineAssembles : Obligations.WrittenLineAssembles := by
  intro i
  refine ⟨assemble_toLine i, ?_⟩
  rw [AsmLine.wellFormed, assemble_toLine, Option.isSome_some]

end Sys2Proof

/-! PROOFS. Control flow (spec/40_control_flow.md): the return stack and the skips. Each answer of 2nnn and of 00EE is one
equation, and what such an answer leaves is said once for the three policies. -/

namespace Sys2Proof.Machine

/-! ### 2nnn and 00EE below and at the bounds (R151, R153, R305, R307) -/

section stack
variable {s : State}

theorem exec_call_of_room (nnn : Addr) (room : s.sp.val < 16) :
    exec (.call nnn) s = .next (State.setPc
      { s with stack := s.stack.set s.sp.val (s.pc + 2) room, sp := ⟨s.sp.val + 1, Nat.succ_lt_succ room⟩ } (addrWord nnn)) :=
  exec_call_of_push (dif_pos room)

theorem exec_call_full_fault (nnn : Addr) (full : s.sp.val = 16) (policy : s.params.stackPolicy = .fault) :
    exec (.call nnn) s = .next (s.raiseStackFault .stackOverflow) :=
  exec_call_of_error (by simp [State.push, full, policy])

theorem exec_call_full_wrap (nnn : Addr) (full : s.sp.val = 16) (policy : s.params.stackPolicy = .wrap) :
    exec (.call nnn) s = .next (State.setPc { s with stack := s.stack.set 0 (s.pc + 2), sp := 1 } (addrWord nnn)) :=
  exec_call_of_push (by simp [State.push, full, policy])

theorem exec_call_full_clamp (nnn : Addr) (full : s.sp.val = 16) (policy : s.params.stackPolicy = .clamp) :
    exec (.call nnn) s = .next (State.setPc { s with stack := s.stack.set 15 (s.pc + 2), sp := 16 } (addrWord nnn)) :=
  exec_call_of_push (by simp [State.push, full, policy])

theorem exec_ret_of_live (live : 0 < s.sp.val) :
    exec .ret s = .next (State.setPc { s with sp := ⟨s.sp.val - 1, by have := s.sp.isLt; omega⟩ }
      (s.stack[s.sp.val - 1]'(by have := s.sp.isLt; omega))) :=
  exec_ret_of_pop (dif_pos live)

theorem exec_ret_empty_fault (empty : s.sp.val = 0) (policy : s.params.stackPolicy = .fault) :
    exec .ret s = .next (s.raiseStackFault .stackUnderflow) :=
  exec_ret_of_error (by simp [State.pop, empty, policy])

theorem exec_ret_empty_wrap (empty : s.sp.val = 0) (policy : s.params.stackPolicy = .wrap) :
    exec .ret s = .next (State.setPc { s with sp := 15 } s.stack[15]) :=
  exec_ret_of_pop (by simp [State.pop, empty, policy])

theorem exec_ret_empty_clamp (empty : s.sp.val = 0) (policy : s.params.stackPolicy = .clamp) :
    exec .ret s = .next (State.setPc { s with sp := 0 } s.stack[0]) :=
  exec_ret_of_pop (by simp [State.pop, empty, policy])

/-- A call that stores its return address in entry j: no other entry, and nothing but SP and PC beside it, changes. -/
theorem exec_call_stores {nnn : Addr} {j : Nat} {hj : j < 16} {p : Fin 17}
    (h : exec (.call nnn) s = .next (State.setPc { s with stack := s.stack.set j (s.pc + 2) hj, sp := p } (addrWord nnn))) :
    ∃ t, exec (.call nnn) s = .next t ∧ t.stack[j] = s.pc + 2 ∧ t.sp = p ∧ t.pc.toNat = nnn.toNat ∧
      (∀ (k : Nat) (h : k < 16), k ≠ j → t.stack[k] = s.stack[k]) ∧ OnlyStack s t ∧ MemSame s t := by
  refine ⟨_, h, ?stored, rfl, addrWord_toNat nnn, ?others, rfl, fun _ => rfl⟩
  case stored => exact Vector.getElem_set_self hj
  case others => exact fun k hk ne => Vector.getElem_set_ne hj hk ne.symm

/-- A return to w that leaves SP = p: the stack's entries, and all but SP and PC, are kept. -/
theorem exec_ret_resumes {w : Word} {p : Fin 17} (h : exec .ret s = .next (State.setPc { s with sp := p } w)) :
    ∃ t, exec .ret s = .next t ∧ t.pc = w ∧ t.sp = p ∧ t.stack = s.stack ∧ OnlyStack s t ∧ MemSame s t :=
  ⟨_, h, rfl, rfl, rfl, rfl, fun _ => rfl⟩

end stack

/-! ### The skips (R155 to R158, R275) -/

theorem exec_seImm (x : Reg) (kk : Byte) (s : State) : exec (.seImm x kk) s = .next (s.skipIf (s.reg x == kk)) := rfl

theorem exec_sneImm (x : Reg) (kk : Byte) (s : State) : exec (.sneImm x kk) s = .next (s.skipIf (s.reg x != kk)) := rfl

theorem exec_seReg (x y : Reg) (s : State) : exec (.seReg x y) s = .next (s.skipIf (s.reg x == s.reg y)) := rfl

theorem exec_sneReg (x y : Reg) (s : State) : exec (.sneReg x y) s = .next (s.skipIf (s.reg x != s.reg y)) := rfl

theorem exec_sknp (x : Reg) (s : State) : exec (.sknp x) s = .next (s.skipIf (!s.keyDown x)) := rfl

/-- A skip whose condition decides P. -/
theorem State.skipIf_of_iff (s : State) {c : Bool} {P : Prop} [Decidable P] (h : c = true ↔ P) :
    s.skipIf c = { s with pc := if P then s.pc + 4 else s.pc + 2 } := by
  rw [State.skipIf_eq, if_congr h rfl rfl]
  rfl

/-! ### The statements -/

/-- Settles O9: below the bound a call stores its return address in the entry at SP. -/
theorem callPushesReturnAddress : Obligations.CallPushesReturnAddress := by
  intro nnn s room
  obtain ⟨t, ht, stored, sp, frame⟩ := exec_call_stores (exec_call_of_room nnn room)
  exact ⟨t, ht, stored, congrArg Fin.val sp, frame⟩

/-- Settles O10: above the bound a return resumes at the entry below SP. -/
theorem returnPopsIntoPc : Obligations.ReturnPopsIntoPc := by
  intro s live
  obtain ⟨t, ht, pc, sp, frame⟩ := exec_ret_resumes (exec_ret_of_live live)
  refine ⟨t, ht, ?_, pc, frame⟩
  rw [sp]
  exact Nat.sub_add_cancel live

/-- Settles O11: under the default policy the bounds raise. -/
theorem stackBoundsRaiseFault : Obligations.StackBoundsRaiseFault := fun _ policy =>
  ⟨fun nnn full => exec_call_full_fault nnn full policy, fun empty => exec_ret_empty_fault empty policy⟩

/-- Settles O12: at the bounds each of the two policies stores in, or resumes at, its own entry. -/
theorem stackPoliciesWrapAndClamp : Obligations.StackPoliciesWrapAndClamp := by
  intro s
  refine ⟨fun policy => ⟨fun nnn full => ?wrapCall, fun empty => ?wrapRet⟩,
    fun policy => ⟨fun nnn full => ?clampCall, fun empty => ?clampRet⟩⟩
  case wrapCall =>
    obtain ⟨t, ht, stored, sp, pc, others, frame, -⟩ := exec_call_stores (exec_call_full_wrap nnn full policy)
    exact ⟨t, ht, stored, congrArg Fin.val sp, pc, others, frame⟩
  case wrapRet =>
    obtain ⟨t, ht, pc, sp, stack, frame, -⟩ := exec_ret_resumes (exec_ret_empty_wrap empty policy)
    exact ⟨t, ht, pc, congrArg Fin.val sp, stack, frame⟩
  case clampCall =>
    obtain ⟨t, ht, stored, sp, pc, others, frame, -⟩ := exec_call_stores (exec_call_full_clamp nnn full policy)
    exact ⟨t, ht, stored, sp.trans (Fin.ext full).symm, pc, others, frame⟩
  case clampRet =>
    obtain ⟨t, ht, pc, sp, stack, frame, -⟩ := exec_ret_resumes (exec_ret_empty_clamp empty policy)
    exact ⟨t, ht, pc, sp.trans (Fin.ext empty).symm, stack, frame⟩

/-- Settles O13: each skip is a write of PC whose test decides the condition. -/
theorem skipsCompareAndMovePc : Obligations.SkipsCompareAndMovePc := by
  intro x y kk s
  rw [exec_seImm, exec_sneImm, exec_seReg, exec_sneReg]
  exact ⟨congrArg _ (s.skipIf_of_iff beq_iff_eq), congrArg _ (s.skipIf_of_iff bne_iff_ne),
    congrArg _ (s.skipIf_of_iff beq_iff_eq), congrArg _ (s.skipIf_of_iff bne_iff_ne)⟩

/-- Settles O14: the skip tests that the key's bit is clear. -/
theorem skipIfKeyUp : Obligations.SkipIfKeyUp := by
  intro x s
  rw [exec_sknp]
  exact congrArg _ (s.skipIf_of_iff (Bool.not_eq_true' (s.keyDown x)).to_iff)

end Sys2Proof.Machine

/-! PROOFS. Steps (spec/10_state.md R61, spec/30_encoding.md R130): one equation for each kind of step, and from them the cases of
what a step answers. -/

namespace Sys2Proof.Machine

/-! ### The step of each agent -/

section agents
variable {s : State}

theorem step_tick (turn : s.nextAgent = .tick) (running : s.life = .running) : step s = .next s.begin.tick :=
  step_of_enabled turn (decide_eq_true running)

theorem step_keyChange {keys : BitVec 16} (turn : s.nextAgent = .keyChange keys) (running : s.life = .running) :
    step s = .next (s.begin.keyChange keys) :=
  step_of_enabled turn (decide_eq_true running)

theorem step_killCmd (turn : s.nextAgent = .killCmd) : step s = .next s.begin.killCmd := step_of_enabled turn rfl

theorem step_bootCmd {rom : List Byte} (turn : s.nextAgent = .bootCmd rom) : step s = .next (s.begin.bootCmd rom) :=
  step_of_enabled turn rfl

theorem step_cycle_kill (turn : s.nextAgent = .cycle) (running : s.life = .running) (kill : s.kill = true) :
    step s = .next s.begin.stopSession :=
  (step_of_enabled turn (decide_eq_true ⟨running, .inl kill⟩)).trans (if_pos kill)

theorem step_cycle_faulted (turn : s.nextAgent = .cycle) (faulted : s.fault ≠ .none) (noKill : s.kill = false) :
    step s = .next s.begin :=
  step_of_disabled turn (decide_eq_false (by rintro ⟨-, kill | none⟩; exacts [by simp [noKill] at kill, faulted none]))

/-- In a stopped session none of these three is enabled. -/
theorem step_of_not_running (stopped : s.life ≠ .running)
    (turn : s.nextAgent = .cycle ∨ s.nextAgent = .tick ∨ ∃ keys, s.nextAgent = .keyChange keys) : step s = .next s.begin := by
  rcases turn with turn | turn | ⟨keys, turn⟩
  · exact step_of_disabled turn (decide_eq_false fun h => stopped h.1)
  · exact step_of_disabled turn (decide_eq_false stopped)
  · exact step_of_disabled turn (decide_eq_false stopped)

/-- A kill command in a session only makes the request (R354). -/
theorem State.killCmd_of_running (running : s.life = .running) : s.killCmd = { s with kill := true } := if_pos running

/-- A kill command outside a session has no effect (R354). -/
theorem State.killCmd_of_not_running (stopped : s.life ≠ .running) : s.killCmd = s := if_neg stopped

/-- A kill command writes KILL only. -/
theorem State.killCmd_eq (s : State) : s.killCmd = { s with kill := s.killCmd.kill } := by
  by_cases running : s.life = .running
  · rw [State.killCmd_of_running running]
  · rw [State.killCmd_of_not_running running]

/-- A refused boot writes LIFE, KILL and load_error only (R308). -/
theorem State.bootCmd_refused_eq (s : State) {rom : List Byte} (long : 3584 < rom.length) : s.bootCmd rom =
    { s with life := (s.bootCmd rom).life, kill := (s.bootCmd rom).kill, loadError := true } := by
  rw [State.bootCmd_refused s long]
  split_ifs <;> rfl

end agents

namespace State.Ready
variable {s : State} (ready : s.Ready)
include ready

/-- A ready engine's step is its cycle. -/
theorem step_eq_cycle : step s = s.begin.cycle :=
  step_of_enabled ready.cycleNext (decide_eq_true ⟨ready.running, .inr ready.noFault⟩)

theorem step_of_decode {i : Instr} (fetched : decode s.fetchWord = .ok i) : step s = presenting (exec i s.begin) := by
  rw [ready.step_eq_cycle, State.cycle, State.begin_kill, ready.noKill, State.begin_fetchWord, fetched]
  rfl

theorem step_of_exec {i : Instr} {t : State} (fetched : decode s.fetchWord = .ok i) (h : exec i s.begin = .next t) :
    step s = .next t.render := by
  rw [ready.step_of_decode fetched, h, presenting]

theorem step_of_error {e : DecodeError} (fetched : decode s.fetchWord = .error e) :
    step s = .next (s.begin.raiseDecodeError s.fetchWord).advance.render := by
  rw [ready.step_eq_cycle, State.cycle, State.begin_kill, ready.noKill, State.begin_fetchWord, fetched]
  rfl

end State.Ready

/-! ### What a step answers -/

/-- The states a step from s can answer, by what it did. -/
inductive StepsTo (s : State) : State → Prop where
  | passed (disabled : s.nextAgent.enabled s.begin = false) : StepsTo s s.begin
  | stopped (turn : s.nextAgent = .cycle) (kill : s.kill = true) : StepsTo s s.begin.stopSession
  | reported (ready : s.Ready) (e : DecodeError) (fetched : decode s.fetchWord = .error e) :
      StepsTo s (s.begin.raiseDecodeError s.fetchWord).advance.render
  | ran (ready : s.Ready) (i : Instr) (fetched : decode s.fetchWord = .ok i) (u : State) (h : exec i s.begin = .next u) :
      StepsTo s u.render
  | ticked (turn : s.nextAgent = .tick) (running : s.life = .running) : StepsTo s s.begin.tick
  | keysChanged (keys : BitVec 16) (turn : s.nextAgent = .keyChange keys) (running : s.life = .running) :
      StepsTo s (s.begin.keyChange keys)
  | killRequested (turn : s.nextAgent = .killCmd) : StepsTo s s.begin.killCmd
  | booted (rom : List Byte) (turn : s.nextAgent = .bootCmd rom) : StepsTo s (s.begin.bootCmd rom)

/-- A step always answers a next state, by one of the cases. -/
theorem exists_stepsTo (s : State) : ∃ t, step s = .next t ∧ StepsTo s t := by
  rcases step_cases s with ⟨disabled, e⟩ | ⟨turn, running, enabled, e⟩ | ⟨turn, running, e⟩ | ⟨keys, turn, running, e⟩ |
    ⟨turn, e⟩ | ⟨rom, turn, e⟩
  · exact ⟨_, e, .passed disabled⟩
  · have ready (noKill : s.kill = false) : s.Ready := ⟨turn, running, noKill, enabled.resolve_left (by simp [noKill])⟩
    rcases s.begin.cycle_cases with ⟨kill, e'⟩ | ⟨noKill, err, fetched, e'⟩ | ⟨noKill, i, fetched, e'⟩
    · exact ⟨_, e.trans e', .stopped turn kill⟩
    · exact ⟨_, e.trans e', .reported (ready noKill) err fetched⟩
    · obtain ⟨u, hu, -⟩ := exec_keeps i s.begin
      exact ⟨_, (ready noKill).step_of_exec fetched hu, .ran (ready noKill) i fetched u hu⟩
  · exact ⟨_, e, .ticked turn running⟩
  · exact ⟨_, e, .keysChanged keys turn running⟩
  · exact ⟨_, e, .killRequested turn⟩
  · exact ⟨_, e, .booted rom turn⟩

/-- What a step answers is by one of the cases. -/
theorem StepsTo.of_step {s t : State} (h : step s = .next t) : StepsTo s t := by
  obtain ⟨u, hu, cases⟩ := exists_stepsTo s
  rw [hu] at h
  cases h
  exact cases

/-- Settles O39: the cases of a step are all next states. -/
theorem stepAlwaysAnswersNext : Obligations.StepAlwaysAnswersNext := by
  intro s
  obtain ⟨t, ht, -⟩ := exists_stepsTo s
  exact ⟨t, ht⟩

end Sys2Proof.Machine

/-! PROOFS. The invariant of every step (spec/10_state.md section 6, spec/60_exceptions.md): what can become of FAULT in an
instruction, and then the invariant for each agent's step. -/

namespace Sys2Proof.Machine

/-- What an instruction keeps, of the state it is known to answer. -/
theorem ExecKeeps.of_exec {i : Instr} {s t : State} (h : exec i s = .next t) : ExecKeeps i s t := by
  obtain ⟨u, hu, keeps⟩ := exec_keeps i s
  rw [hu] at h
  cases h
  exact keeps

/-! ### FAULT (R305, R307) -/

/-- Instruction i from s to t raises a stack fault: its policy asks for it, SP is at the bound, and FAULT is all that changes. -/
inductive RaisesFault (s t : State) : Instr → Prop where
  | overflow (nnn : Addr) (policy : s.params.stackPolicy = .fault) (full : s.sp = 16)
      (raised : t = s.raiseStackFault .stackOverflow) : RaisesFault s t (.call nnn)
  | underflow (policy : s.params.stackPolicy = .fault) (empty : s.sp = 0)
      (raised : t = s.raiseStackFault .stackUnderflow) : RaisesFault s t .ret

/-- An instruction keeps FAULT or raises a stack fault. -/
theorem exec_fault {i : Instr} {s t : State} (h : exec i s = .next t) : t.fault = s.fault ∨ RaisesFault s t i := by
  rcases (ExecKeeps.of_exec h).stackOnlyByCallOrRet with ⟨nnn, rfl⟩ | rfl | ⟨fault, -, -⟩
  · rcases s.push_cases (s.pc + 2) with ⟨room, e⟩ | ⟨full, policy, e⟩ | ⟨full, policy, e⟩ | ⟨full, policy, e⟩
    case inr.inl => rw [exec_call_of_error e] at h; cases h; exact .inr (.overflow nnn policy full rfl)
    all_goals rw [exec_call_of_push e] at h; cases h; exact .inl rfl
  · rcases s.pop_cases with ⟨live, e⟩ | ⟨empty, policy, e⟩ | ⟨empty, policy, e⟩ | ⟨empty, policy, e⟩
    case inr.inl => rw [exec_ret_of_error e] at h; cases h; exact .inr (.underflow policy empty rfl)
    all_goals rw [exec_ret_of_pop e] at h; cases h; exact .inl rfl
  · exact .inl fault

/-- Settles O43: an instruction that changes FAULT raises a stack fault. -/
theorem onlyStackBoundsSetFault : Obligations.OnlyStackBoundsSetFault := by
  intro i s t h changed
  rcases (exec_fault h).resolve_left changed with ⟨nnn, policy, full, rfl⟩ | ⟨policy, empty, rfl⟩
  · exact ⟨policy, .inl ⟨⟨nnn, rfl⟩, congrArg Fin.val full, rfl⟩⟩
  · exact ⟨policy, .inr ⟨rfl, congrArg Fin.val empty, rfl⟩⟩

/-! ### The invariant, by what of it a change can touch -/

/-- A state whose stack fault, if any, is that of a state with the invariant meets it when its session does. -/
theorem State.Inv.of_same_fault {s t : State} (inv : s.Inv) (mem : t.mem = s.mem) (params : t.params = s.params)
    (fault : t.fault = s.fault) (sp : t.sp = s.sp) (pc : t.pc = s.pc)
    (life : t.life = .stopped ∨ t.life = .running) (kill : t.kill = true → t.life = .running) : t.Inv where
  memory := by rw [State.memWf, mem, params]; exact inv.memory
  life := life
  kill := kill
  policy := by rw [fault, params]; exact inv.policy
  overflow := by rw [fault, sp, State.fetchWord_congr pc mem params]; exact inv.overflow
  underflow := by rw [fault, sp, State.fetchWord_congr pc mem params]; exact inv.underflow

/-- A state without a stack fault meets it when its memory and its session do. -/
theorem State.Inv.of_no_fault {t : State} (fault : t.fault = .none) (memory : t.memWf)
    (life : t.life = .stopped ∨ t.life = .running) (kill : t.kill = true → t.life = .running) : t.Inv where
  memory := memory
  life := life
  kill := kill
  policy := fun ne => absurd fault ne
  overflow := fun raised => by rw [fault] at raised; cases raised
  underflow := fun raised => by rw [fault] at raised; cases raised

/-- Presenting the picture keeps it. -/
theorem State.Inv.render {s : State} (inv : s.Inv) : s.render.Inv :=
  inv.of_same_fault rfl rfl rfl rfl rfl inv.life inv.kill

/-- So does beginning a step. -/
theorem State.Inv.begin {s : State} (inv : s.Inv) : s.begin.Inv :=
  inv.of_same_fault rfl rfl rfl rfl rfl inv.life inv.kill

/-- So does stopping the session. -/
theorem State.Inv.stopSession {s : State} (inv : s.Inv) : s.stopSession.Inv :=
  inv.of_same_fault rfl rfl rfl rfl rfl (.inl rfl) nofun

/-! ### Each agent's step keeps it -/

/-- The fetched instruction keeps it: where it raises a stack fault, SP is at the bound and PC is still at it. -/
theorem State.Inv.exec {s t : State} {i : Instr} (inv : s.Inv) (noFault : s.fault = .none)
    (fetched : decode s.fetchWord = .ok i) (h : Machine.exec i s = .next t) : t.Inv := by
  have keeps := ExecKeeps.of_exec h
  have life : t.life = .stopped ∨ t.life = .running := by rw [keeps.life]; exact inv.life
  have kill : t.kill = true → t.life = .running := by rw [keeps.kill, keeps.life]; exact inv.kill
  rcases exec_fault h with same | ⟨nnn, policy, full, rfl⟩ | ⟨policy, empty, rfl⟩
  · exact .of_no_fault (same.trans noFault) (keeps.memWf inv.memory) life kill
  · exact ⟨inv.memory, life, kill, fun _ => policy, fun _ => ⟨full, nnn, fetched⟩, nofun⟩
  · exact ⟨inv.memory, life, kill, fun _ => policy, nofun, fun _ => ⟨empty, fetched⟩⟩

/-- A kill command keeps it: it makes a request only in a session. -/
theorem State.Inv.killCmd {s : State} (inv : s.Inv) : s.killCmd.Inv := by
  by_cases running : s.life = .running
  · rw [State.killCmd_of_running running]
    exact inv.of_same_fault rfl rfl rfl rfl rfl (.inr running) fun _ => running
  · rwa [State.killCmd_of_not_running running]

/-- An accepted boot leaves it, whatever was there before. -/
theorem State.bootCmd_inv (s : State) {rom : List Byte} (fits : rom.length ≤ 3584) : (s.bootCmd rom).Inv := by
  have memory := s.bootCmd_memWf fits
  rw [State.bootCmd_accepted s fits] at memory ⊢
  exact .of_no_fault rfl memory (.inr rfl) nofun

/-- A boot command keeps it, accepted or refused. -/
theorem State.Inv.bootCmd {s : State} (inv : s.Inv) (rom : List Byte) : (s.bootCmd rom).Inv := by
  by_cases fits : rom.length ≤ 3584
  · exact s.bootCmd_inv fits
  · rw [State.bootCmd_refused s (Nat.lt_of_not_le fits)]
    split_ifs
    · exact inv.stopSession.of_same_fault rfl rfl rfl rfl rfl (.inl rfl) nofun
    · exact inv.of_same_fault rfl rfl rfl rfl rfl inv.life inv.kill

/-- Settles O46: each of the states a step can answer has the invariant. -/
theorem stepKeepsInv : Obligations.StepKeepsInv := by
  intro s t inv h
  have inv := inv.begin
  cases StepsTo.of_step h with
  | passed => exact inv
  | stopped => exact inv.stopSession
  | reported ready => exact .of_no_fault ready.noFault inv.memory inv.life inv.kill
  | ran ready i fetched u hu => exact (inv.exec ready.noFault fetched hu).render
  | ticked => exact inv.of_same_fault rfl rfl rfl rfl rfl inv.life inv.kill
  | keysChanged keys => exact inv.of_same_fault rfl rfl rfl rfl rfl inv.life inv.kill
  | killRequested => exact inv.killCmd
  | booted rom => exact inv.bootCmd rom

/-- Settles O47: memory lists nothing, LIFE is Running, and no kill is pending and no fault stands. -/
theorem resetHasInv : Obligations.ResetHasInv := .of_no_fault rfl State.reset_memWf (.inr rfl) nofun

end Sys2Proof.Machine

/-! PROOFS. The flag instructions of 8xy_ and Cxkk (spec/41_alu.md): each one write of V[x], with or without a flag, and the
advance of PC; and what all twelve instructions of the chapter leave alone. -/

namespace Sys2Proof.Machine

/-! ### The six instructions -/

/-- R194. -/
theorem exec_addReg (x y : Reg) (s : State) : exec (.addReg x y) s =
    .next (s.setRegAndFlag x (addMod (s.reg x) (s.reg y)) (carryOut (s.reg x) (s.reg y))).advance := rfl

/-- R195. -/
theorem exec_sub (x y : Reg) (s : State) : exec (.sub x y) s =
    .next (s.setRegAndFlag x (subMod (s.reg x) (s.reg y)) (noBorrow (s.reg x) (s.reg y))).advance := rfl

/-- R196. -/
theorem exec_shr (x y : Reg) (s : State) : exec (.shr x y) s =
    .next (s.setRegAndFlag x (s.reg x >>> 1) (lowBit (s.reg x))).advance := rfl

/-- R197. -/
theorem exec_subn (x y : Reg) (s : State) : exec (.subn x y) s =
    .next (s.setRegAndFlag x (subMod (s.reg y) (s.reg x)) (noBorrow (s.reg y) (s.reg x))).advance := rfl

/-- R198. -/
theorem exec_shl (x y : Reg) (s : State) : exec (.shl x y) s =
    .next (s.setRegAndFlag x (s.reg x <<< 1) (highBit (s.reg x))).advance := rfl

/-- R200. -/
theorem exec_rnd (x : Reg) (kk : Byte) (s : State) : exec (.rnd x kk) s =
    .next (State.setReg { s with draws := s.draws + 1 } x (Config.rnd s.draws &&& kk)).advance := rfl

/-! ### Results and flags as numbers (R181, R194 to R198) -/

theorem subMod_toNat (a b : Byte) : (subMod a b).toNat = (a.toNat + 256 - b.toNat) % 256 := BitVec.toNat_ofNat _ 8

theorem flagByte_toNat (c : Bool) : (flagByte c).toNat = if c = true then 1 else 0 := by cases c <;> rfl

/-- A flag that decides P is the number 1 when P holds and 0 when it does not. -/
theorem flagByte_decide_toNat (P : Prop) [Decidable P] : (flagByte (decide P)).toNat = if P then 1 else 0 := by
  rw [flagByte_toNat, if_congr decide_eq_true_iff rfl rfl]

theorem flagByte_lowBit_toNat (a : Byte) : (flagByte (lowBit a)).toNat = a.toNat % 2 := by
  have bit : lowBit a = decide (a.toNat % 2 = 1) := Nat.testBit_zero ..
  rw [bit, flagByte_decide_toNat]
  split_ifs <;> omega

theorem flagByte_highBit_toNat (a : Byte) : (flagByte (highBit a)).toNat = a.toNat / 128 := by
  have small : a.toNat < 2 ^ 8 := a.isLt
  have bit : highBit a = decide (a.toNat / 2 ^ 7 % 2 = 1) := Nat.testBit_eq_decide_div_mod_eq
  rw [bit, flagByte_decide_toNat]
  split_ifs <;> omega

theorem shiftRight_one_toNat (a : Byte) : (a >>> 1).toNat = a.toNat / 2 := by
  rw [BitVec.toNat_ushiftRight, Nat.shiftRight_eq_div_pow, pow_one]

theorem shiftLeft_one_toNat (a : Byte) : (a <<< 1).toNat = a.toNat * 2 % 256 := by
  rw [BitVec.toNat_shiftLeft, Nat.shiftLeft_eq, pow_one]

/-- An instruction that is one write of V[x] and its flag and the advance of PC: VF is the flag, V[x] the byte unless it is VF,
and all else is kept. -/
theorem exec_writes_reg_and_flag {i : Instr} {s : State} {x : Reg} {b : Byte} {c : Bool}
    (h : exec i s = .next (s.setRegAndFlag x b c).advance) :
    ∃ t, exec i s = .next t ∧ (x ≠ VF → t.reg x = b) ∧ t.reg VF = flagByte c ∧
      RegsSameBut [x, VF] s t ∧ OnlyRegs s t ∧ MemSame s t := by
  refine ⟨_, h, fun ne => ?result, ?flag, regsSameBut_setRegAndFlag s x b c, rfl, fun _ => rfl⟩
  case result => rw [State.reg_advance, State.reg_setRegAndFlag, if_neg ne.symm, if_pos rfl]
  case flag => rw [State.reg_advance, State.reg_setRegAndFlag, if_pos rfl]

/-- The same, with the result and the flag as the numbers n and m. -/
theorem exec_writes_reg_and_flag_toNat {i : Instr} {s : State} {x : Reg} {b : Byte} {c : Bool} {n m : Nat}
    (h : exec i s = .next (s.setRegAndFlag x b c).advance) (result : b.toNat = n) (flag : (flagByte c).toNat = m) :
    ∃ t, exec i s = .next t ∧ (x ≠ VF → (t.reg x).toNat = n) ∧ (t.reg VF).toNat = m ∧
      RegsSameBut [x, VF] s t ∧ OnlyRegs s t ∧ MemSame s t := by
  obtain ⟨t, ht, hx, hf, frame⟩ := exec_writes_reg_and_flag h
  exact ⟨t, ht, fun ne => by rw [hx ne, result], by rw [hf, flag], frame⟩

/-! ### From two states with equal registers (R180) -/

/-- An instruction that is one write of V[x], of a byte that it computes from the registers, touches V[x] only. -/
theorem registersOnly_of_setReg {i : Instr} {x : Reg} (f : (Reg → Byte) → Byte)
    (h : ∀ s, exec i s = .next (s.setReg x (f s.reg)).advance) : RegistersOnly [x] i := by
  intro s r hv hd
  have regs : r.reg = s.reg := funext (State.reg_congr hv)
  refine ⟨_, _, h s, h r, ?same, regsSameBut_setReg s x _, rfl⟩
  case same => rw [regs, State.advance_v, State.advance_v, State.setReg_v, State.setReg_v, hv]

/-- An instruction that is one write of V[x] and its flag, both computed from the registers, touches V[x] and VF only. -/
theorem registersOnly_of_setRegAndFlag {i : Instr} {x : Reg} (f : (Reg → Byte) → Byte) (c : (Reg → Byte) → Bool)
    (h : ∀ s, exec i s = .next (s.setRegAndFlag x (f s.reg) (c s.reg)).advance) : RegistersOnly [x, VF] i := by
  intro s r hv hd
  have regs : r.reg = s.reg := funext (State.reg_congr hv)
  refine ⟨_, _, h s, h r, ?same, regsSameBut_setRegAndFlag s x _ _, rfl⟩
  case same => rw [regs, State.advance_v, State.advance_v, State.setRegAndFlag_v, State.setRegAndFlag_v, hv]

/-- The masked draw touches V[x] only: the draw is the one both states are about to take. -/
theorem registersOnly_rnd (x : Reg) (kk : Byte) : RegistersOnly [x] (.rnd x kk) := by
  intro s r hv hd
  refine ⟨_, _, exec_rnd x kk s, exec_rnd x kk r, ?same, regsSameBut_setReg { s with draws := s.draws + 1 } x _, rfl⟩
  case same => simp only [State.advance_v, State.setReg_v, hv, hd]

/-! ### The statements -/

/-- Settles O18: the sum and its carry are written. -/
theorem addRegisterSetsCarry : Obligations.AddRegisterSetsCarry := fun x y s =>
  exec_writes_reg_and_flag_toNat (exec_addReg x y s) (addMod_toNat _ _) (flagByte_decide_toNat _)

/-- Settles O19: both differences and their borrows are written. -/
theorem subtractSetsNoBorrow : Obligations.SubtractSetsNoBorrow := fun x y s =>
  ⟨exec_writes_reg_and_flag_toNat (exec_sub x y s) (subMod_toNat _ _) (flagByte_decide_toNat _),
    exec_writes_reg_and_flag_toNat (exec_subn x y s) (subMod_toNat _ _) (flagByte_decide_toNat _)⟩

/-- Settles O20: the half or the double and the bit shifted out are written. -/
theorem shiftsMoveVxByOne : Obligations.ShiftsMoveVxByOne := fun x y s =>
  ⟨exec_writes_reg_and_flag_toNat (exec_shr x y s) (shiftRight_one_toNat _) (flagByte_lowBit_toNat _),
    exec_writes_reg_and_flag_toNat (exec_shl x y s) (shiftLeft_one_toNat _) (flagByte_highBit_toNat _)⟩

/-- Settles O21: one draw is counted, and its masked byte written. -/
theorem randomIsMaskedDraw : Obligations.RandomIsMaskedDraw := by
  intro x kk s
  refine ⟨_, exec_rnd x kk s, ?written, rfl, regsSameBut_setReg { s with draws := s.draws + 1 } x _, rfl, fun _ => rfl⟩
  case written => rw [State.reg_advance, State.reg_setReg, if_pos rfl]

/-- Settles O44: what each of the twelve writes is computed from the registers, or is the masked draw. -/
theorem aluTouchesOnlyRegisters : Obligations.AluTouchesOnlyRegisters := by
  intro x y kk
  simp only [List.forall_mem_cons, List.not_mem_nil, false_implies, implies_true, and_true]
  refine ⟨⟨?ldImm, ?addImm, ?ldReg, ?orReg, ?andReg, ?xorReg, registersOnly_rnd x kk⟩, ?addReg, ?sub, ?shr, ?subn, ?shl⟩
  case ldImm => exact registersOnly_of_setReg (fun _ => kk) (exec_ldImm x kk)
  case addImm => exact registersOnly_of_setReg (fun v => addMod (v x) kk) (exec_addImm x kk)
  case ldReg => exact registersOnly_of_setReg (fun v => v y) (exec_ldReg x y)
  case orReg => exact registersOnly_of_setReg (fun v => v x ||| v y) (exec_orReg x y)
  case andReg => exact registersOnly_of_setReg (fun v => v x &&& v y) (exec_andReg x y)
  case xorReg => exact registersOnly_of_setReg (fun v => v x ^^^ v y) (exec_xorReg x y)
  case addReg =>
    exact registersOnly_of_setRegAndFlag (fun v => addMod (v x) (v y)) (fun v => carryOut (v x) (v y)) (exec_addReg x y)
  case sub =>
    exact registersOnly_of_setRegAndFlag (fun v => subMod (v x) (v y)) (fun v => noBorrow (v x) (v y)) (exec_sub x y)
  case shr => exact registersOnly_of_setRegAndFlag (fun v => v x >>> 1) (fun v => lowBit (v x)) (exec_shr x y)
  case subn =>
    exact registersOnly_of_setRegAndFlag (fun v => subMod (v y) (v x)) (fun v => noBorrow (v y) (v x)) (exec_subn x y)
  case shl => exact registersOnly_of_setRegAndFlag (fun v => v x <<< 1) (fun v => highBit (v x)) (exec_shl x y)

end Sys2Proof.Machine

/-! PROOFS. Index and memory (spec/42_index_memory.md, spec/20_memory.md): the addition to I, the stores of digits and registers,
the load of registers, and the fetch of stored bytes. -/

namespace Sys2Proof.Machine

/-- R231. -/
theorem exec_addI (x : Reg) (s : State) :
    exec (.addI x) s = .next (s.setI (BitVec.ofNat 16 (s.i.toNat + (s.reg x).toNat))).advance := rfl

/-- R233. -/
theorem exec_ldB (x : Reg) (s : State) : exec (.ldB x) s =
    .next (((s.writeByte (s.indexed 0) (hundreds (s.reg x))).writeByte (s.indexed 1) (tens (s.reg x))).writeByte
      (s.indexed 2) (ones (s.reg x))).advance := rfl

/-- R234. -/
theorem exec_ldMemVx (x : Reg) (s : State) : exec (.ldMemVx x) s = .next (s.dumpRegs (x.toNat + 1)).advance := rfl

/-- R235. -/
theorem exec_ldVxMem (x : Reg) (s : State) : exec (.ldVxMem x) s = .next (s.loadRegs (x.toNat + 1)).advance := rfl

/-! ### Bytes, digits and register numbers -/

/-- The advance of PC leaves every byte of memory. -/
theorem State.readByte_advance (s : State) (a : Nat) : s.advance.readByte a = s.readByte a := rfl

theorem hundreds_toNat (v : Byte) : (hundreds v).toNat = v.toNat / 100 := by
  have small : v.toNat < 2 ^ 8 := v.isLt
  rw [hundreds, BitVec.toNat_ofNat, Nat.mod_eq_of_lt (by omega)]

theorem tens_toNat (v : Byte) : (tens v).toNat = v.toNat / 10 % 10 := by
  rw [tens, BitVec.toNat_ofNat, Nat.mod_eq_of_lt (by omega)]

theorem ones_toNat (v : Byte) : (ones v).toNat = v.toNat % 10 := by
  rw [ones, BitVec.toNat_ofNat, Nat.mod_eq_of_lt (by omega)]

/-- The registers up to V[x] are the first x + 1, and there are sixteen. -/
theorem Reg.toNat_lt_succ_iff {k x : Reg} : k.toNat < x.toNat + 1 ↔ k ≤ x := Nat.lt_succ_iff.trans BitVec.le_def.symm

theorem Reg.ofNat_toNat (k : Reg) : BitVec.ofNat 4 k.toNat = k := by rw [BitVec.ofNat_toNat, BitVec.setWidth_eq]

/-! ### What the three stores and loads leave -/

/-- What a store of three bytes leaves at each address, the last one written first. -/
theorem State.readByte_writeByte_three {s : State} (h : s.memWf) (a b c : Nat) (u v w : Byte) (d : Nat) :
    (((s.writeByte a u).writeByte b v).writeByte c w).readByte d =
      if c % 4096 = d % 4096 then w else if b % 4096 = d % 4096 then v else if a % 4096 = d % 4096 then u
      else s.readByte d := by
  have h1 := State.writeByte_memWf h a u
  rw [State.readByte_writeByte (State.writeByte_memWf h1 b v), State.readByte_writeByte h1, State.readByte_writeByte h]

/-- The memory after Fx55: V[k] at I + k for k up to x (R234). -/
theorem readByte_dumpRegs_of_le {s : State} (h : s.memWf) {k x : Reg} (hk : k ≤ x) :
    (s.dumpRegs (x.toNat + 1)).readByte (s.indexed k.toNat) = s.reg k := by
  rw [State.readByte_dumpRegs h _ x.isLt _ (Reg.toNat_lt_succ_iff.mpr hk), Reg.ofNat_toNat]

/-- The registers after Fx65: the bytes from I on up to V[x], and the others as before (R235). -/
theorem reg_loadRegs_succ (s : State) (x k : Reg) :
    (s.loadRegs (x.toNat + 1)).reg k = if k ≤ x then s.readByte (s.indexed k.toNat) else s.reg k := by
  rw [State.reg_loadRegs s _ x.isLt, if_congr Reg.toNat_lt_succ_iff rfl rfl]

/-! ### The statements -/

/-- Settles O7: the two bytes of the fetched word, with their addresses reduced. -/
theorem fetchIsBigEndianAndWraps : Obligations.FetchIsBigEndianAndWraps := by
  intro s
  rw [State.readByte_mod, State.readByte_mod, State.fetchWord, cat, BitVec.toNat_append,
    ← Nat.shiftLeft_add_eq_or_of_lt (BitVec.isLt _), Nat.shiftLeft_eq]

/-- Settles O23: the sum is written to I, reduced to its width. -/
theorem addToIndexWraps : Obligations.AddToIndexWraps := by
  intro x s
  obtain ⟨t, ht, written, frame⟩ := exec_writes_only_index (exec_addI x s)
  exact ⟨t, ht, written.trans (BitVec.toNat_ofNat _ 16), frame⟩

/-- Settles O24: the three addresses differ modulo 4096, so each digit is read back. -/
theorem bcdDigitsAreStored : Obligations.BcdDigitsAreStored := by
  intro x s h
  have after := State.readByte_writeByte_three h (s.indexed 0) (s.indexed 1) (s.indexed 2) (hundreds (s.reg x))
    (tens (s.reg x)) (ones (s.reg x))
  have apart (j k : Nat) (hj : j < 3) (hk : k < 3) (ne : j ≠ k) : s.indexed j % 4096 ≠ s.indexed k % 4096 := by
    simp only [State.indexed]; omega
  refine ⟨_, exec_ldB x s, ?hundreds, ?tens, ?ones, fun a other => ?others, rfl⟩ <;> rw [State.readByte_advance, after]
  case hundreds =>
    rw [if_neg (apart 2 0 (by decide) (by decide) (by decide)), if_neg (apart 1 0 (by decide) (by decide) (by decide)),
      if_pos rfl, hundreds_toNat]
  case tens => rw [if_neg (apart 2 1 (by decide) (by decide) (by decide)), if_pos rfl, tens_toNat]
  case ones => rw [if_pos rfl, ones_toNat]
  case others =>
    rw [if_neg (other 2 (by decide)).symm, if_neg (other 1 (by decide)).symm, if_neg (other 0 (by decide)).symm]

/-- Settles O25: the dump stores each register at its own address. -/
theorem registersAreDumped : Obligations.RegistersAreDumped := by
  intro x s h
  refine ⟨_, exec_ldMemVx x s, fun k hk => readByte_dumpRegs_of_le h hk, fun a other => ?others, ?frame⟩
  case others =>
    refine State.readByte_dumpRegs_outside h _ a fun k hk => ?_
    have small : k < 2 ^ 4 := by have := x.isLt; omega
    have eq : (BitVec.ofNat 4 k).toNat = k := (BitVec.toNat_ofNat k 4).trans (Nat.mod_eq_of_lt small)
    rw [← eq]
    exact other _ (Reg.toNat_lt_succ_iff.mp (by rwa [eq]))
  case frame =>
    rw [OnlyMemory, State.dumpRegs_eq]
    rfl

/-- Settles O26: the load takes each register from its own address. -/
theorem registersAreLoaded : Obligations.RegistersAreLoaded := by
  intro x s
  refine ⟨_, exec_ldVxMem x s, fun k hk => ?loaded, fun k hk => ?kept, ?frame, fun a => ?memory⟩
  case loaded => rw [State.reg_advance, reg_loadRegs_succ, if_pos hk]
  case kept => rw [State.reg_advance, reg_loadRegs_succ, if_neg (BitVec.not_le.mpr hk)]
  case frame =>
    rw [OnlyRegs, State.loadRegs_eq]
    rfl
  case memory =>
    rw [State.loadRegs_eq]
    rfl

/-- Settles O27: the load takes V[k] from where the dump put it. -/
theorem dumpLoadRoundTrip : Obligations.DumpLoadRoundTrip := by
  intro x s s1 t h dump hi kept
  cases dump
  refine ⟨_, exec_ldVxMem x t, fun k hk => ?_⟩
  have address : t.indexed k.toNat = s.indexed k.toNat := by rw [State.indexed, State.indexed, hi]
  rw [State.reg_advance, reg_loadRegs_succ, if_pos hk, address, kept k hk, State.readByte_advance,
    readByte_dumpRegs_of_le h hk]

/-- Settles O28: the two addresses of a fetch differ modulo 4096, so it reads both bytes back. -/
theorem fetchSeesStoredBytes : Obligations.FetchSeesStoredBytes := by
  intro s high low h
  have stored := State.readByte_writeByte (State.writeByte_memWf h s.pc.toNat high) (s.pc.toNat + 1)
  rw [State.fetchWord, State.writeByte_pc, State.writeByte_pc, stored, stored, if_neg (by omega), if_pos rfl,
    State.readByte_writeByte h, if_pos rfl]

end Sys2Proof.Machine

/-! PROOFS. The display (spec/43_display.md): the draw, one write of the picture and of VF, and two draws of one sprite. -/

namespace Sys2Proof.Machine

/-- R253. -/
theorem exec_drw (x y : Reg) (n : Nibble) (s : State) : exec (.drw x y n) s =
    .next (State.setReg { s with fb := (s.drawing (s.reg x).toNat (s.reg y).toNat n.toNat).1 } VF
      (flagByte (s.drawing (s.reg x).toNat (s.reg y).toNat n.toNat).2)).advance := rfl

/-- The pixels under the set bits of the sprite that Dxyn draws. -/
def DrwSets (x y : Reg) (n : Nibble) (s : State) (px py : Nat) : Prop :=
  SpriteSets s (s.reg x).toNat (s.reg y).toNat n.toNat px py

theorem flagByte_eq_one_iff (c : Bool) : flagByte c = 1 ↔ c = true := by cases c <;> decide

theorem flagByte_eq_one_or_zero (c : Bool) : flagByte c = 1 ∨ flagByte c = 0 := by cases c <;> decide

section drw
variable {x y : Reg} {n : Nibble} {s t : State} (h : exec (.drw x y n) s = .next t)
include h

/-- After a draw VF is the collision. -/
theorem reg_VF_of_exec_drw : t.reg VF = flagByte (s.drawing (s.reg x).toNat (s.reg y).toNat n.toNat).2 := by
  cases h
  rw [State.reg_advance, State.reg_setReg, if_pos rfl]

/-- A draw flips the pixels under its sprite's set bits and no other (R253, R254). -/
theorem pixel_of_exec_drw {px py : Nat} (hx : px < 64) (hy : py < 32) :
    (DrwSets x y n s px py → Framebuffer.pixel t.fb px py = !Framebuffer.pixel s.fb px py) ∧
    (¬DrwSets x y n s px py → Framebuffer.pixel t.fb px py = Framebuffer.pixel s.fb px py) := by
  cases h
  exact State.drawing_pixel s _ _ _ (Nat.le_of_lt_succ n.isLt) px py hx hy

/-- A draw sets VF exactly when a pixel that was 1 lies under one of its sprite's set bits (R256). -/
theorem reg_VF_eq_one_of_exec_drw : t.reg VF = 1 ↔
    ∃ px py, px < 64 ∧ py < 32 ∧ Framebuffer.pixel s.fb px py = true ∧ DrwSets x y n s px py := by
  rw [reg_VF_of_exec_drw h, flagByte_eq_one_iff]
  exact State.drawing_hit s _ _ _ (Nat.le_of_lt_succ n.isLt)

end drw

/-- Which pixels a sprite sets depends on I and the bytes of its rows only. -/
theorem spriteSets_congr {s t : State} {n : Nat} (bytes : ∀ r < n, t.readByte (t.indexed r) = s.readByte (s.indexed r))
    (x0 y0 px py : Nat) : SpriteSets t x0 y0 n px py ↔ SpriteSets s x0 y0 n px py := by
  refine exists_congr fun r => exists_congr fun c => and_congr_right fun hr => ?_
  rw [bytes r hr]

/-- Settles O30: the picture and the collision of the drawing, which the draw writes. -/
theorem drawFlipsSpritePixels : Obligations.DrawFlipsSpritePixels := by
  intro x y n s
  have h := exec_drw x y n s
  refine ⟨_, h, fun px py hx hy => pixel_of_exec_drw h hx hy, reg_VF_eq_one_of_exec_drw h, ?flag, ?registers, rfl,
    fun _ => rfl⟩
  case flag =>
    rw [reg_VF_of_exec_drw h]
    exact flagByte_eq_one_or_zero _
  case registers => exact regsSameBut_setReg { s with fb := _ } VF _

/-- Settles O31: both draws set the same pixels, so each pixel flips twice or never, and the second draw collides where the first
one left a 1. -/
theorem spriteIsSelfInverse : Obligations.SpriteIsSelfInverse := by
  intro x y n s s1 t u first second hfb _ bytes hx hy
  have same (px py : Nat) : DrwSets x y n t px py ↔ DrwSets x y n s px py := by
    rw [DrwSets, DrwSets, hx, hy]
    exact spriteSets_congr bytes _ _ px py
  refine ⟨Framebuffer.ext_pixel fun px py bx bY => ?restored, ?collision⟩
  case restored =>
    obtain ⟨flips1, keeps1⟩ := pixel_of_exec_drw first bx bY
    obtain ⟨flips2, keeps2⟩ := pixel_of_exec_drw second bx bY
    by_cases set : DrwSets x y n s px py
    · rw [flips2 ((same px py).mpr set), hfb, flips1 set, Bool.not_not]
    · rw [keeps2 (mt (same px py).mp set), hfb, keeps1 set]
  case collision =>
    rw [reg_VF_eq_one_of_exec_drw second, hfb]
    simp only [same]
    rfl

end Sys2Proof.Machine

/-! PROOFS. Every instruction (spec/30_encoding.md section 7, spec/10_state.md): the next PC, what is read and what is written. -/

namespace Sys2Proof.Machine

/-- The answers of a call: it pushes and goes on at its target, or it raises. -/
theorem exec_call_cases (nnn : Addr) (s : State) :
    (∃ stack sp, exec (.call nnn) s = .next (State.setPc { s with stack := stack, sp := sp } (addrWord nnn))) ∨
    exec (.call nnn) s = .next (s.raiseStackFault .stackOverflow) := by
  rcases s.push_cases (s.pc + 2) with ⟨_, e⟩ | ⟨_, _, e⟩ | ⟨_, _, e⟩ | ⟨_, _, e⟩
  case inr.inl => exact .inr (exec_call_of_error e)
  all_goals exact .inl ⟨_, _, exec_call_of_push e⟩

/-- The answers of a return: it pops and goes on at some word, or it raises. -/
theorem exec_ret_cases (s : State) :
    (∃ sp w, exec .ret s = .next (State.setPc { s with sp := sp } w)) ∨
    exec .ret s = .next (s.raiseStackFault .stackUnderflow) := by
  rcases s.pop_cases with ⟨_, e⟩ | ⟨_, _, e⟩ | ⟨_, _, e⟩ | ⟨_, _, e⟩
  case inr.inl => exact .inr (exec_ret_of_error e)
  all_goals exact .inl ⟨_, _, exec_ret_of_pop e⟩

/-- A skip goes on by 4 or by 2. -/
theorem State.skipIf_pc (s : State) (c : Bool) : (s.skipIf c).pc = s.pc + 4 ∨ (s.skipIf c).pc = s.pc + 2 := by
  cases c
  · exact .inr rfl
  · exact .inl rfl

theorem State.dumpRegs_pc (s : State) (n : Nat) : (s.dumpRegs n).pc = s.pc := by rw [State.dumpRegs_eq]

theorem State.loadRegs_pc (s : State) (n : Nat) : (s.loadRegs n).pc = s.pc := by rw [State.loadRegs_eq]

/-! ### What is written (R34 to R47, R86) -/

/-- A register that i does not write reads as before. -/
theorem reg_of_not_writesReg {i : Instr} {s t : State} (h : exec i s = .next t) {r : Reg} (kept : ¬WritesReg i r) :
    t.reg r = s.reg r := by
  cases i
  case call nnn =>
    rcases exec_call_cases nnn s with ⟨_, _, e⟩ | e <;> rw [e] at h <;> cases h <;> rfl
  case ret =>
    rcases exec_ret_cases s with ⟨_, _, e⟩ | e <;> rw [e] at h <;> cases h <;> rfl
  case' seImm | sneImm | seReg | sneReg | sknp =>
    cases h
    exact State.reg_congr (congrArg State.v (s.skipIf_eq _)) r
  case ldMemVx =>
    cases h
    exact State.reg_congr (congrArg State.v (s.dumpRegs_eq _)) r
  case ldVxMem =>
    cases h
    rw [State.reg_advance, reg_loadRegs_succ]
    exact if_neg kept
  case rnd x kk =>
    cases h
    exact regsSameBut_setReg { s with draws := s.draws + 1 } x _ r (mt List.mem_singleton.mp kept)
  case drw =>
    cases h
    exact regsSameBut_setReg { s with fb := _ } VF _ r (mt List.mem_singleton.mp kept)
  case' ldImm | addImm | ldReg | orReg | andReg | xorReg | ldVxDt =>
    cases h
    exact regsSameBut_setReg s _ _ r (mt List.mem_singleton.mp kept)
  case' addReg | sub | shr | subn | shl =>
    cases h
    exact regsSameBut_setRegAndFlag s _ _ _ r (by simpa [WritesReg] using kept)
  all_goals
    cases h
    rfl

/-- The writers of I, the timers, memory, the picture and the draws, and what no instruction emits. -/
structure ExecWrites (i : Instr) (s t : State) : Prop where
  index : t.i = s.i ∨ (∃ nnn, i = .ldI nnn) ∨ (∃ x, i = .addI x) ∨ ∃ x, i = .ldF x
  delay : t.dt = s.dt ∨ ∃ x, i = .ldDtVx x
  sound : t.st = s.st ∨ ∃ x, i = .ldStVx x
  memory : t.mem = s.mem ∨ (∃ x, i = .ldB x) ∨ ∃ x, i = .ldMemVx x
  picture : t.fb = s.fb ∨ i = .cls ∨ ∃ x y n, i = .drw x y n
  draws : t.draws = s.draws ∨ ∃ x kk, i = .rnd x kk
  loadError : t.loadError = s.loadError
  diag : t.diag = s.diag
  frame : t.frame = s.frame

/-- Every instruction keeps to its writers. -/
theorem exec_writes {i : Instr} {s t : State} (h : exec i s = .next t) : ExecWrites i s t := by
  cases i
  case call nnn =>
    rcases exec_call_cases nnn s with ⟨_, _, e⟩ | e <;> rw [e] at h <;> cases h <;> constructor <;> simp
  case ret =>
    rcases exec_ret_cases s with ⟨_, _, e⟩ | e <;> rw [e] at h <;> cases h <;> constructor <;> simp
  case' seImm | sneImm | seReg | sneReg | sknp =>
    cases h
    rw [State.skipIf_eq]
    constructor <;> simp
  case ldMemVx x =>
    cases h
    rw [State.dumpRegs_eq]
    constructor <;> simp
  case ldVxMem x =>
    cases h
    rw [State.loadRegs_eq]
    constructor <;> simp
  case rnd x kk =>
    rw [exec_rnd] at h
    cases h
    constructor <;> simp
  all_goals
    cases h
    constructor <;> simp

/-! ### What is read (R43, R46) -/

/-- The state with other values in LIFE, KILL and KEY. -/
def State.withSession (s : State) (life : Life) (kill : Bool) (key : BitVec 16) : State :=
  { s with life := life, kill := kill, key := key }

section session
variable (s : State) (life : Life) (kill : Bool) (key : BitVec 16)

theorem State.dumpRegs_withSession (n : Nat) :
    (s.withSession life kill key).dumpRegs n = (s.dumpRegs n).withSession life kill key := by
  induction n with
  | zero => rfl
  | succ n ih => rw [State.dumpRegs, ih]; rfl

theorem State.loadRegs_withSession (n : Nat) :
    (s.withSession life kill key).loadRegs n = (s.loadRegs n).withSession life kill key := by
  induction n with
  | zero => rfl
  | succ n ih => rw [State.loadRegs, ih]; rfl

theorem State.skipIf_withSession (c : Bool) :
    (s.withSession life kill key).skipIf c = (s.skipIf c).withSession life kill key := by
  cases c <;> rfl

theorem State.push_withSession (w : Word) :
    (s.withSession life kill key).push w = (s.push w).map (·.withSession life kill key) := by
  rcases s.push_cases w with ⟨room, e⟩ | ⟨full, policy, e⟩ | ⟨full, policy, e⟩ | ⟨full, policy, e⟩ <;> rw [e]
  · exact dif_pos room
  all_goals simp [State.push, State.withSession, full, policy, Except.map]

theorem State.pop_withSession :
    (s.withSession life kill key).pop = s.pop.map fun p => (p.1, p.2.withSession life kill key) := by
  rcases s.pop_cases with ⟨live, e⟩ | ⟨empty, policy, e⟩ | ⟨empty, policy, e⟩ | ⟨empty, policy, e⟩ <;> rw [e]
  · exact dif_pos live
  all_goals simp [State.pop, State.withSession, empty, policy, Except.map]

theorem State.drawing_withSession : (s.withSession life kill key).drawing = s.drawing := by
  funext x0 y0 n
  exact State.drawing_congr (s := s) (r := s.withSession life kill key) rfl rfl rfl rfl x0 y0 n

end session

/-- An instruction does the same whatever LIFE and KILL hold, and keeps them, and so for KEY if it does not test a key. -/
theorem exec_withSession {i : Instr} {s t : State} (life : Life) (kill : Bool) (key : BitVec 16) (h : exec i s = .next t)
    (noTest : (∀ x, i ≠ .sknp x) ∨ key = s.key) : exec i (s.withSession life kill key) = .next (t.withSession life kill key) := by
  cases i
  case sknp x =>
    obtain rfl : key = s.key := noTest.resolve_left fun no => no x rfl
    cases h
    exact congrArg _ (s.skipIf_withSession life kill s.key _)
  case call nnn =>
    have push := s.push_withSession life kill key (s.pc + 2)
    cases e : s.push (s.pc + 2) <;> rw [e] at push
    · rw [exec_call_of_error e] at h; cases h; exact exec_call_of_error push
    · rw [exec_call_of_push e] at h; cases h; exact exec_call_of_push push
  case ret =>
    have pop := s.pop_withSession life kill key
    cases e : s.pop <;> rw [e] at pop
    · rw [exec_ret_of_error e] at h; cases h; exact exec_ret_of_error pop
    · rw [exec_ret_of_pop e] at h; cases h; exact exec_ret_of_pop pop
  case' seImm | sneImm | seReg | sneReg =>
    cases h
    exact congrArg _ (s.skipIf_withSession life kill key _)
  case ldMemVx x =>
    cases h
    rw [exec_ldMemVx, State.dumpRegs_withSession]
    rfl
  case ldVxMem x =>
    cases h
    rw [exec_ldVxMem, State.loadRegs_withSession]
    rfl
  case drw x y n =>
    cases h
    rw [exec_drw, State.drawing_withSession]
    rfl
  all_goals
    cases h
    rfl

/-! ### The statements -/

/-- Settles O38: a jump, a call and a return write the target, a skip PC + 4 or PC + 2, and every other instruction advances. -/
theorem nextPcOfEveryInstruction : Obligations.NextPcOfEveryInstruction := by
  intro i s t h _
  cases i
  case call nnn =>
    intro room
    rw [exec_call_of_room nnn room] at h
    cases h
    rfl
  case ret =>
    intro live
    rw [exec_ret_of_live live] at h
    cases h
    rfl
  case' seImm | sneImm | seReg | sneReg | sknp =>
    cases h
    exact State.skipIf_pc s _
  case ldMemVx x =>
    cases h
    exact congrArg (· + 2) (s.dumpRegs_pc _)
  case ldVxMem x =>
    cases h
    exact congrArg (· + 2) (s.loadRegs_pc _)
  all_goals
    cases h
    rfl

/-- Settles O40: LIFE and KILL are kept; the test of a key does not read them either. -/
theorem instructionsIgnoreLifeAndKill : Obligations.InstructionsIgnoreLifeAndKill := by
  intro i s t life kill h
  have keeps := ExecKeeps.of_exec h
  refine ⟨keeps.life, keeps.kill, (exec_withSession life kill s.key h (.inr rfl)).trans ?_⟩
  rw [← keeps.key]
  rfl

/-- Settles O41: KEY is kept, and read by the test of a key only. -/
theorem onlySknpReadsKeys : Obligations.OnlySknpReadsKeys := by
  intro i s t keys h
  have keeps := ExecKeeps.of_exec h
  refine ⟨keeps.key, fun noTest => (exec_withSession s.life s.kill keys h (.inl noTest)).trans ?_⟩
  rw [← keeps.life, ← keeps.kill]
  rfl

/-- Settles O42: the registers, the stack and FAULT, and the other elements each have their writers. -/
theorem eachElementHasItsWriters : Obligations.EachElementHasItsWriters := by
  intro i s t h
  have writes := exec_writes h
  have keeps := ExecKeeps.of_exec h
  refine ⟨writes.index.resolve_left, ?stack, writes.delay.resolve_left, writes.sound.resolve_left,
    writes.memory.resolve_left, writes.picture.resolve_left, writes.draws.resolve_left,
    fun r => not_imp_comm.mp (reg_of_not_writesReg h), ?fault, keeps.key, keeps.life, keeps.kill, ?others⟩
  case stack =>
    intro changed
    rcases keeps.stackOnlyByCallOrRet with call | ret | ⟨-, sp, stack⟩
    · exact .inl call
    · exact .inr ret
    · exact absurd (And.intro sp stack) (not_and_or.mpr changed)
  case fault =>
    intro changed
    rcases (exec_fault h).resolve_left changed with ⟨nnn, _, _, rfl⟩ | ⟨_, _, rfl⟩
    · exact ⟨.inl ⟨nnn, rfl⟩, rfl⟩
    · exact ⟨.inr rfl, rfl⟩
  case others =>
    rw [keeps.params, keeps.schedule, keeps.turn, writes.loadError, writes.diag, writes.frame]

end Sys2Proof.Machine

/-! PROOFS. What the steps of a session do (spec/10_state.md, spec/60_exceptions.md, spec/70_reset_and_hazards.md). -/

namespace Sys2Proof.Machine

/-- Settles O36: a ready engine's step is the fetched instruction with the picture presented. -/
theorem stepRunsDecodedInstruction : Obligations.StepRunsDecodedInstruction := fun _ _ ready fetched =>
  ⟨ready.step_of_decode fetched, fun _ h => ready.step_of_exec fetched h⟩

/-- Settles O37: a ready engine's step is the diagnostic, the advance and the picture. -/
theorem stepReportsDecodeError : Obligations.StepReportsDecodeError := fun _ _ ready fetched => ready.step_of_error fetched

/-- Settles O34: an enabled tick counts both timers down. -/
theorem tickCountsDown : Obligations.TickCountsDown := fun s turn running =>
  ⟨_, step_tick turn running, countDown_toNat s.dt, countDown_toNat s.st, rfl⟩

/-- Settles O49: an enabled cycle that finds a kill stops the session. -/
theorem cycleObservesKill : Obligations.CycleObservesKill := fun _ => step_cycle_kill

/-- Settles O50: the cycle is not enabled. -/
theorem faultedEngineRunsNothing : Obligations.FaultedEngineRunsNothing := fun _ => step_cycle_faulted

/-- Settles O51: none of the three is enabled. -/
theorem stoppedSessionStaysAsItIs : Obligations.StoppedSessionStaysAsItIs := fun _ => step_of_not_running

/-- Settles O52: an enabled key change writes KEY. -/
theorem keyChangeCopiesKeys : Obligations.KeyChangeCopiesKeys := fun _ _ => step_keyChange

/-- Settles O53: the command's step is its effect, which is there in a session only and does not add up. -/
theorem killCommandOnlyRequests : Obligations.KillCommandOnlyRequests := by
  intro s turn
  rw [step_killCmd turn]
  refine ⟨fun running => ?requests, fun stopped => ?nothing, ?twice⟩
  case requests => exact congrArg _ (State.killCmd_of_running (s := s.begin) running)
  case nothing => rw [State.killCmd_of_not_running (by rw [State.begin_life, stopped]; decide)]
  case twice =>
    by_cases running : s.begin.life = .running
    · rw [State.killCmd_of_running running]
      exact State.killCmd_of_running running
    · rw [State.killCmd_of_not_running running, State.killCmd_of_not_running running]

/-! ### What no step changes, and what the other agents leave (R8, R312) -/

theorem State.killCmd_params (s : State) : s.killCmd.params = s.params := by rw [State.killCmd_eq]

theorem State.bootCmd_params (s : State) (rom : List Byte) : (s.bootCmd rom).params = s.params := by
  by_cases fits : rom.length ≤ 3584
  · rw [State.bootCmd_accepted s fits]; rfl
  · rw [State.bootCmd_refused_eq s (Nat.lt_of_not_le fits)]

/-- Settles O48: no case of a step writes the parameters. -/
theorem parametersNeverChange : Obligations.ParametersNeverChange := by
  intro s t h
  cases StepsTo.of_step h with
  | ran _ i _ u hu => exact (ExecKeeps.of_exec hu).params
  | killRequested => exact s.begin.killCmd_params
  | booted rom => exact s.begin.bootCmd_params rom
  | _ => rfl

/-- Settles O56: none of the three steps writes these, enabled or not. -/
theorem ticksKeysAndKillsRedirectNothing : Obligations.TicksKeysAndKillsRedirectNothing := by
  intro s t turn h
  have noCycle : s.nextAgent ≠ .cycle := by rintro cycle; simp [cycle] at turn
  cases StepsTo.of_step h with
  | passed | ticked | keysChanged => exact ⟨rfl, rfl, rfl, rfl, rfl, rfl, fun _ => rfl⟩
  | killRequested =>
    rw [State.killCmd_eq]
    exact ⟨rfl, rfl, rfl, rfl, rfl, rfl, fun _ => rfl⟩
  | stopped cycle => exact absurd cycle noCycle
  | reported ready | ran ready => exact absurd ready.cycleNext noCycle
  | booted rom boot => simp [boot] at turn

/-! ### A parked engine (R375) -/

/-- A state with the session, the fault, the PC and the memory of a parked engine is parked. -/
theorem State.Parked.of_same {s t : State} {a : Addr} (parked : s.Parked a) (life : t.life = s.life)
    (fault : t.fault = s.fault) (pc : t.pc = s.pc) (mem : t.mem = s.mem) (params : t.params = s.params) : t.Parked a where
  running := life.trans parked.running
  noFault := fault.trans parked.noFault
  atJump := pc.trans parked.atJump
  jumpsToItself := by rw [State.fetchWord_congr pc mem params]; exact parked.jumpsToItself

/-- The jump of a parked engine leaves the state it runs in. -/
theorem State.Parked.exec_jp {s : State} {a : Addr} (parked : s.Parked a) : exec (.jp a) s.begin = .next s.begin := by
  rw [Machine.exec_jp, ← parked.atJump]
  rfl

/-- Settles O57: the cycle runs the jump, a tick and a key change write the timers and KEY. -/
theorem parkedEngineStaysParked : Obligations.ParkedEngineStaysParked := by
  intro s a parked noKill turn
  rcases turn with turn | turn | ⟨keys, turn⟩
  · have ready : s.Ready := ⟨turn, parked.running, noKill, parked.noFault⟩
    exact ⟨_, ready.step_of_exec parked.jumpsToItself parked.exec_jp, parked.of_same rfl rfl rfl rfl rfl, noKill, rfl⟩
  · exact ⟨_, step_tick turn parked.running, parked.of_same rfl rfl rfl rfl rfl, noKill, rfl⟩
  · exact ⟨_, step_keyChange turn parked.running, parked.of_same rfl rfl rfl rfl rfl, noKill, rfl⟩

end Sys2Proof.Machine

/-! PROOFS. Boots and power-on (spec/70_reset_and_hazards.md, spec/10_state.md section 9): what an accepted boot leaves, and that
it depends on nothing that the engine held. -/

namespace Sys2Proof.Machine

/-! ### What Reset and a boot leave (R70, R351 to R353) -/

theorem State.resetAll_reg (s : State) (r : Reg) : s.resetAll.reg r = 0 := Vector.getElem_replicate r.isLt

theorem State.resetAll_stack (s : State) (k : Nat) (h : k < 16) : s.resetAll.stack[k] = 0 := Vector.getElem_replicate h

/-- Unlisted memory reads as the font below 0x050 and as 0 above (R89). -/
theorem Memory.unlisted_of_lt (font : Font) {a : Nat} (h : a < 80) : Memory.unlisted font a = font[a] := dif_pos h

theorem Memory.unlisted_of_le (font : Font) {a : Nat} (h : 80 ≤ a) : Memory.unlisted font a = 0 := dif_neg (Nat.not_lt.mpr h)

/-- A boot of a program that fits leaves one state, whatever the engine held beside what no boot touches. -/
theorem State.bootCmd_congr {s t : State} {rom : List Byte} (fits : rom.length ≤ 3584) (params : t.params = s.params)
    (schedule : t.schedule = s.schedule) (turn : t.turn = s.turn) (draws : t.draws = s.draws) (diag : t.diag = s.diag)
    (frame : t.frame = s.frame) : t.bootCmd rom = s.bootCmd rom := by
  rw [State.bootCmd_accepted t fits, State.bootCmd_accepted s fits,
    State.loadFrom_mem_congr (s := s.resetAll) (t := t.resetAll) rfl params]
  simp only [State.resetAll, params, schedule, turn, draws, diag, frame]

/-- The program lies from 0x200 on (R353). -/
theorem State.readByte_bootCmd_program (s : State) {rom : List Byte} (fits : rom.length ≤ 3584) {k : Nat}
    (h : k < rom.length) : (s.bootCmd rom).readByte (0x200 + k) = rom[k] := by
  rw [State.readByte_bootCmd s fits (by omega), dif_pos ⟨Nat.le_add_right _ _, Nat.add_lt_add_left h _⟩]
  simp only [Nat.add_sub_cancel_left]

/-- Outside the program memory is what Reset left (R352). -/
theorem State.readByte_bootCmd_outside (s : State) {rom : List Byte} (fits : rom.length ≤ 3584) {a : Nat} (ha : a < 4096)
    (outside : a < 0x200 ∨ 0x200 + rom.length ≤ a) : (s.bootCmd rom).readByte a = Memory.unlisted s.params.font a := by
  rw [State.readByte_bootCmd s fits ha, dif_neg (by omega)]

/-- Settles O54: the fields of an accepted boot, and the memory in its four parts. -/
theorem bootStartsProgram : Obligations.BootStartsProgram := by
  intro s rom turn fits
  refine ⟨_, step_bootCmd turn, ?_⟩
  have outside (a : Nat) := s.begin.readByte_bootCmd_outside fits (a := a)
  have program (k : Nat) := s.begin.readByte_bootCmd_program fits (k := k)
  rw [State.bootCmd_accepted _ fits] at outside program ⊢
  refine ⟨s.begin.resetAll_reg, rfl, rfl, rfl, s.begin.resetAll_stack, rfl, rfl, rfl, Framebuffer.pixel_blank, rfl, rfl, rfl,
    rfl, rfl, fun a h => ?font, fun a lo hi => ?gap, fun k h => program k h, fun a lo hi => ?rest, rfl, rfl, rfl, rfl⟩
  case font => exact (outside a (by omega) (.inl (by omega))).trans (Memory.unlisted_of_lt _ h)
  case gap => exact (outside a (by omega) (.inl hi)).trans (Memory.unlisted_of_le _ lo)
  case rest => exact (outside a hi (.inr lo)).trans (Memory.unlisted_of_le _ (by omega))

/-- Settles O55: the refused boot, in a running session and in a stopped one. -/
theorem bootRefusesLongProgram : Obligations.BootRefusesLongProgram := by
  intro s rom turn long
  rw [step_bootCmd turn, State.bootCmd_refused _ long]
  refine ⟨fun running => ?_, fun stopped => ?_⟩
  · rw [if_pos (show s.begin.life = .running from running)]
    rfl
  · rw [if_neg (show s.begin.life ≠ .running by rw [State.begin_life, stopped]; decide)]

/-- Settles O58: the reset state is written out, and its memory lists nothing. -/
theorem resetValues : Obligations.ResetValues := by
  have unlisted {a : Nat} (h : a < 4096) : State.reset.readByte a = Memory.unlisted State.reset.params.font a :=
    State.reset.readByte_resetAll h
  refine ⟨State.resetAll_reg State.reset, rfl, rfl, rfl, State.resetAll_stack State.reset, rfl, rfl, Framebuffer.pixel_blank,
    rfl, rfl, rfl, rfl, rfl, fun a h => ?font, fun a lo hi => ?zero⟩
  case font => exact (unlisted (by omega)).trans (Memory.unlisted_of_lt _ h)
  case zero => exact (unlisted hi).trans (Memory.unlisted_of_le _ lo)

/-! ### Power-on (R71) -/

theorem State.powerOn_not_running (u : State) : u.powerOn.life ≠ .running := nofun

/-- Settles O59: at power-on a cycle, a tick and a key change are not enabled, and a kill command has no effect. -/
theorem powerOnWaitsForBoot : Obligations.PowerOnWaitsForBoot := by
  intro u
  have stopped := u.powerOn_not_running
  refine ⟨rfl, rfl, fun noBoot => ?_⟩
  cases turn : u.powerOn.nextAgent with
  | cycle => exact step_of_not_running stopped (.inl turn)
  | tick => exact step_of_not_running stopped (.inr (.inl turn))
  | keyChange keys => exact step_of_not_running stopped (.inr (.inr ⟨keys, turn⟩))
  | killCmd => rw [step_killCmd turn, State.killCmd_of_not_running (s := u.powerOn.begin) stopped]
  | bootCmd rom => exact absurd turn (noBoot rom)

/-- Whose turn it is depends on the schedule, the parameters and the turn. -/
theorem State.nextAgent_congr {s t : State} (params : t.params = s.params) (schedule : t.schedule = s.schedule)
    (turn : t.turn = s.turn) : t.nextAgent = s.nextAgent := by
  simp only [State.nextAgent, params, schedule, turn]

/-- Settles O60: the boot depends on none of the contents, and leaves the invariant. -/
theorem firstBootErasesPowerOnContents : Obligations.FirstBootErasesPowerOnContents := by
  intro u w rom params schedule turn draws boot fits
  have bootW : w.powerOn.nextAgent = .bootCmd rom := (State.nextAgent_congr params schedule turn).trans boot
  refine ⟨_, step_bootCmd (s := u.powerOn) boot, ?same, State.bootCmd_inv _ fits⟩
  case same =>
    rw [step_bootCmd bootW]
    exact congrArg _ (State.bootCmd_congr fits params (congrArg List.tail schedule) (congrArg Nat.succ turn) draws rfl rfl)

end Sys2Proof.Machine

/-! PROOFS. Runs of steps (spec/44_keys_timers.md section 3, spec/40_control_flow.md section 1): the timers after n ticks, and the
return that matches a call. -/

namespace Sys2Proof.Machine

/-! ### The timers (R280, R282) -/

/-- A timer and the form of instruction that writes it: any state with equal timers reads the same, a tick counts down, and no
other instruction touches it. -/
structure IsTimer (read : State → Byte) (writer : Reg → Instr) : Prop where
  congr : ∀ s t : State, t.dt = s.dt → t.st = s.st → read t = read s
  tick : ∀ s : State, read s.tick = countDown (read s)
  exec : ∀ {i : Instr} {s t : State}, Machine.exec i s = .next t → read t = read s ∨ ∃ x, i = writer x

theorem isTimer_dt : IsTimer State.dt .ldDtVx := ⟨fun _ _ dt _ => dt, fun _ => rfl, fun h => (exec_writes h).delay⟩

theorem isTimer_st : IsTimer State.st .ldStVx := ⟨fun _ _ _ st => st, fun _ => rfl, fun h => (exec_writes h).sound⟩

namespace IsTimer
variable {read : State → Byte} {writer : Reg → Instr} (timer : IsTimer read writer)
include timer

/-- A step that is no tick of a running session, no accepted boot and no write of the timer keeps it. -/
theorem step_other {s t : State} (h : step s = .next t) (noTick : s.nextAgent = .tick → s.life ≠ .running)
    (noBoot : ∀ rom, s.nextAgent = .bootCmd rom → 3584 < rom.length) (noWrite : ∀ x, ¬s.Runs (writer x)) :
    read t = read s := by
  cases StepsTo.of_step h with
  | passed | stopped | reported | keysChanged => exact timer.congr _ _ rfl rfl
  | ran ready i fetched u hu =>
    have kept : read u = read s.begin := (timer.exec hu).resolve_right
      fun ⟨x, e⟩ => noWrite x ⟨ready, e ▸ fetched⟩
    exact (timer.congr u u.render rfl rfl).trans (kept.trans (timer.congr s s.begin rfl rfl))
  | ticked turn running => exact absurd running (noTick turn)
  | killRequested =>
    rw [State.killCmd_eq]
    exact timer.congr _ _ rfl rfl
  | booted rom turn =>
    rw [State.bootCmd_refused_eq _ (noBoot rom turn)]
    exact timer.congr _ _ rfl rfl

theorem step_tick {s t : State} (turn : s.nextAgent = .tick) (running : s.life = .running) (h : step s = .next t) :
    (read t).toNat = (read s).toNat - 1 := by
  rw [Machine.step_tick turn running] at h
  cases h
  rw [timer.tick, countDown_toNat, timer.congr s s.begin rfl rfl]

/-- After n ticks the timer is lower by n, or 0 (R282). -/
theorem of_tickRun {n : Nat} {s t : State} (run : TickRun writer n s t) : (read t).toNat = (read s).toNat - n := by
  induction run with
  | here => rfl
  | tick n s t u _ turn running h ih => rw [timer.step_tick turn running h, ih, Nat.sub_sub]
  | other n s t u _ noTick noBoot noWrite h ih => rw [timer.step_other h noTick noBoot noWrite, ih]

end IsTimer

/-- A running session whose schedule lists n ticks first takes them (R282). -/
theorem stepsFrom_ticks (n : Nat) (s : State) (rest : List AgentStep) (running : s.life = .running)
    (schedule : s.schedule = List.replicate n AgentStep.tick ++ rest) :
    ∃ t, stepsFrom s n = .next t ∧ t.dt.toNat = s.dt.toNat - n ∧ t.st.toNat = s.st.toNat - n ∧
      t.schedule = rest ∧ t.pc = s.pc ∧ t.v = s.v := by
  induction n generalizing s with
  | zero => exact ⟨s, rfl, rfl, rfl, schedule, rfl, rfl⟩
  | succ n ih =>
    have turn : s.nextAgent = .tick := by rw [State.nextAgent, schedule]; rfl
    obtain ⟨t, ht, dt, st, left, pc, v⟩ := ih s.begin.tick running (congrArg List.tail schedule)
    refine ⟨t, ?_, ?_, ?_, left, pc, v⟩
    · rw [stepsFrom, step_tick turn running]; exact ht
    · rw [dt, State.tick_dt, countDown_toNat, State.begin_dt]; omega
    · rw [st, State.tick_st, countDown_toNat, State.begin_st]; omega

/-- Settles O35: both timers obey the law of a run, and listed ticks are taken. -/
theorem timersAfterTicks : Obligations.TimersAfterTicks :=
  ⟨fun _ _ _ => isTimer_dt.of_tickRun, fun _ _ _ => isTimer_st.of_tickRun, stepsFrom_ticks⟩

/-! ### The matching return (R154) -/

/-- Under the default policy no instruction writes an entry below SP. -/
theorem exec_keeps_live_entries {i : Instr} {s t : State} (policy : s.params.stackPolicy = .fault) (h : exec i s = .next t)
    {k : Nat} (hk : k < 16) (live : k < s.sp.val) : t.stack[k] = s.stack[k] := by
  rcases (ExecKeeps.of_exec h).stackOnlyByCallOrRet with ⟨nnn, rfl⟩ | rfl | ⟨-, -, stack⟩
  · by_cases room : s.sp.val < 16
    · rw [exec_call_of_room nnn room] at h
      cases h
      exact Vector.getElem_set_ne room hk live.ne'
    · rw [exec_call_full_fault nnn (by omega) policy] at h
      cases h
      rfl
  · rcases exec_ret_cases s with ⟨sp, w, e⟩ | e <;> rw [e] at h <;> cases h <;> rfl
  · rw [stack]

/-- Under the default policy a step between two states with at least `base` live entries writes none of the first `base`. -/
theorem step_keeps_live_entries {base : Nat} {s t : State} (policy : s.params.stackPolicy = .fault) (h : step s = .next t)
    (live : base ≤ s.sp.val) (live' : base ≤ t.sp.val) {k : Nat} (hk : k < 16) (below : k < base) :
    t.stack[k] = s.stack[k] := by
  cases StepsTo.of_step h with
  | ran _ i _ u hu => exact exec_keeps_live_entries (s := s.begin) (t := u) policy hu hk (below.trans_le live)
  | killRequested => rw [State.killCmd_eq, State.begin_stack]
  | booted rom =>
    by_cases fits : rom.length ≤ 3584
    · rw [State.bootCmd_accepted _ fits] at live'
      exact absurd (below.trans_le live') (Nat.not_lt_zero k)
    · rw [State.bootCmd_refused_eq _ (Nat.lt_of_not_le fits), State.begin_stack]
  | _ => rfl

/-- So a run above `base` live entries writes none of the first `base`, and keeps the policy. -/
theorem StepsAbove.keeps_entries {base : Nat} {s t : State} (run : StepsAbove base s t)
    (policy : s.params.stackPolicy = .fault) :
    t.params.stackPolicy = .fault ∧ base ≤ t.sp.val ∧ ∀ (k : Nat) (hk : k < 16), k < base → t.stack[k] = s.stack[k] := by
  induction run with
  | here live => exact ⟨policy, live, fun _ _ _ => rfl⟩
  | more t u _ h above ih =>
    obtain ⟨policyT, live, entries⟩ := ih
    refine ⟨?_, above, fun k hk below => ?_⟩
    · rw [parametersNeverChange t u h, policyT]
    · rw [step_keeps_live_entries policyT h live above hk below, entries k hk below]

/-- Settles O45: the call stores the address behind it in the entry at its SP, no step above that level writes it or an entry below,
and the return takes it back. -/
theorem callReturnsBehindItself : Obligations.CallReturnsBehindItself := by
  intro nnn s s1 t u policy room ready fetched call run level readyT fetchedT ret
  obtain ⟨c, hc, stored, -, -, others, -⟩ := exec_call_stores (exec_call_of_room (s := s.begin) nnn room)
  rw [ready.step_of_exec fetched hc] at call
  cases call
  obtain ⟨-, -, entries⟩ := run.keeps_entries (by rw [State.render_params, (ExecKeeps.of_exec hc).params]; exact policy)
  have live : 0 < t.begin.sp.val := by rw [State.begin_sp]; omega
  obtain ⟨r, hr, pc, sp, stack, -⟩ := exec_ret_resumes (exec_ret_of_live live)
  rw [readyT.step_of_exec fetchedT hr] at ret
  cases ret
  refine ⟨?pc, ?sp, fun k hk below => ?entries⟩
  case pc =>
    have level' : t.sp.val - 1 = s.sp.val := by omega
    calc r.pc = t.stack[t.sp.val - 1] := pc
      _ = t.stack[s.sp.val] := by simp only [level']
      _ = c.stack[s.sp.val] := entries _ room (Nat.lt_succ_self _)
      _ = s.pc + 2 := stored
  case sp =>
    refine Fin.ext ?_
    rw [State.render_sp, sp]
    show t.sp.val - 1 = s.sp.val
    omega
  case entries =>
    calc r.stack[k] = t.stack[k] := by rw [stack, State.begin_stack]
      _ = c.stack[k] := entries k hk (by omega)
      _ = s.stack[k] := others k hk below.ne

end Sys2Proof.Machine
